-- ==== Sys2Proof/Word.lean ====
section
/-! DEFINITION. The words the CORE handles: bytes and 16-bit command words (00_scope.md R11, 30_encoding.md R80). -/

namespace Sys2Proof

/-- A byte is 8 bits (00_scope.md R11). -/
abbrev Byte := BitVec 8

/-- A command word is 16 bits (30_encoding.md R80). -/
abbrev CommandWord := BitVec 16

end Sys2Proof
end

