-- ==== Sys2Proof/Syntax.lean ====
section
/-! DEFINITION. The command set: one constructor for each row of the opcode map (30_encoding.md R87). -/

namespace Sys2Proof

/-- A command with its operands: bits of F, the IMM byte, and the data phase (30_encoding.md R81, R82, R85, R86).
The payload length n of a SEND command is the length of its payload, since `len(P) = n` in every variant (R82). -/
inductive Instr where
  /-- `CFG_FRAME vl, ad` (40_configuration.md R110). -/
  | cfgFrame (vl ad : Bool)
  /-- `CFG_AES e` (40_configuration.md R112). -/
  | cfgAes (e : Bool)
  /-- `CFG_SLOTS n` (40_configuration.md R114). -/
  | cfgSlots (nReq : Byte)
  /-- `CFG_PAYLOAD p` (40_configuration.md R116). -/
  | cfgPayload (pReq : Byte)
  /-- `SET_HIGHPOWER` (44_power.md R200). -/
  | setHighpower
  /-- `SET_POWER dbm, b` (44_power.md R203); dbm is the IMM byte, read as two's complement. -/
  | setPower (dbm : Byte) (b : Bool)
  /-- `RECEIVE` (41_state_machine.md R132). -/
  | receive
  /-- `POLL` (41_state_machine.md R140). -/
  | poll
  /-- `AVAILABLE` (42_ring_buffer.md R163). -/
  | available
  /-- `READ` (42_ring_buffer.md R166). -/
  | read
  /-- `CAN_SEND` (41_state_machine.md R147). -/
  | canSend
  /-- `SEND [P]` (41_state_machine.md R136). -/
  | send (payload : List Byte)
  /-- `SEND_ADDR a, [P]` (41_state_machine.md R137). -/
  | sendAddr (address : Byte) (payload : List Byte)
  /-- `SEND_VAR [P]` (41_state_machine.md R138). -/
  | sendVar (payload : List Byte)
  /-- `SEND_ADDR_VAR a, [P]` (41_state_machine.md R139). -/
  | sendAddrVar (address : Byte) (payload : List Byte)
deriving DecidableEq, Repr

/-- Whether a command is one of the SEND family (41_state_machine.md R135). -/
def Instr.isSend : Instr → Bool
  | .cfgFrame _ _ => false
  | .cfgAes _ => false
  | .cfgSlots _ => false
  | .cfgPayload _ => false
  | .setHighpower => false
  | .setPower _ _ => false
  | .receive => false
  | .poll => false
  | .available => false
  | .read => false
  | .canSend => false
  | .send _ => true
  | .sendAddr _ _ => true
  | .sendVar _ => true
  | .sendAddrVar _ _ => true

end Sys2Proof
end

