-- ==== Sys2Proof/WellFormed.lean ====
section
/-! DEFINITION. Which terms of Instr are commands: those whose operands fit the word (30_encoding.md R82, R94). Ranges
that depend on the configuration are no part of it: the command's own rule checks those (30_encoding.md R92). -/

namespace Sys2Proof

/-- The payload length n is the IMM byte, so a payload has at most 255 bytes (30_encoding.md R82, R85, R94). -/
def payloadFits (payload : List Byte) : Bool := decide (payload.length ≤ 255)

/-- A well-formed instruction: every operand fits the encoding. -/
def Instr.wellFormed : Instr → Bool
  | .cfgFrame _ _ => true
  | .cfgAes _ => true
  | .cfgSlots _ => true
  | .cfgPayload _ => true
  | .setHighpower => true
  | .setPower _ _ => true
  | .receive => true
  | .poll => true
  | .available => true
  | .read => true
  | .canSend => true
  | .send payload => payloadFits payload
  | .sendAddr _ payload => payloadFits payload
  | .sendVar payload => payloadFits payload
  | .sendAddrVar _ payload => payloadFits payload

end Sys2Proof
end

