-- ==== Sys2Proof/Decode.lean ====
section
/-! DEFINITION. The command decoder, total on any bytes (30_encoding.md R80 to R93), and the encoder, written from the
assembler's table (30_encoding.md R94). -/

namespace Sys2Proof

/-- The fifteen rows of the opcode map (30_encoding.md R87). -/
inductive Opcode where
  | cfgFrame
  | cfgAes
  | cfgSlots
  | cfgPayload
  | setHighpower
  | setPower
  | receive
  | poll
  | available
  | read
  | canSend
  | send
  | sendAddr
  | sendVar
  | sendAddrVar
deriving DecidableEq, Repr

/-- One row of the opcode map: a word w selects it iff `w & mask = pattern` (30_encoding.md R87). -/
structure OpcodeRow where
  pattern : CommandWord
  mask : CommandWord
  opcode : Opcode
deriving DecidableEq, Repr

/-- The opcode map (30_encoding.md R87). -/
def opcodeMap : List OpcodeRow :=
  [ ⟨0x1000#16, 0xFCFF#16, .cfgFrame⟩,
    ⟨0x2000#16, 0xFEFF#16, .cfgAes⟩,
    ⟨0x3000#16, 0xFF00#16, .cfgSlots⟩,
    ⟨0x4000#16, 0xFF00#16, .cfgPayload⟩,
    ⟨0x5000#16, 0xFFFF#16, .setHighpower⟩,
    ⟨0x6000#16, 0xFE00#16, .setPower⟩,
    ⟨0x7000#16, 0xFFFF#16, .receive⟩,
    ⟨0x8000#16, 0xFFFF#16, .poll⟩,
    ⟨0x9000#16, 0xFFFF#16, .available⟩,
    ⟨0xA000#16, 0xFFFF#16, .read⟩,
    ⟨0xB000#16, 0xFFFF#16, .canSend⟩,
    ⟨0xC000#16, 0xFF00#16, .send⟩,
    ⟨0xC100#16, 0xFF00#16, .sendAddr⟩,
    ⟨0xC200#16, 0xFF00#16, .sendVar⟩,
    ⟨0xC300#16, 0xFF00#16, .sendAddrVar⟩ ]

/-- Whether w selects the row (30_encoding.md R87). -/
def OpcodeRow.selects (r : OpcodeRow) (w : CommandWord) : Bool := (w &&& r.mask) == r.pattern

/-- `OPC = w[15:12]` (30_encoding.md R80). -/
def opcField (w : CommandWord) : BitVec 4 := w.extractLsb' 12 4

/-- `F = w[11:8]` (30_encoding.md R80). -/
def flagField (w : CommandWord) : BitVec 4 := w.extractLsb' 8 4

/-- `IMM = w[7:0]` (30_encoding.md R80). -/
def immField (w : CommandWord) : Byte := w.extractLsb' 0 8

/-- The length D of the data phase: `zext_8(IMM) + F[0]` for OPC = 0xC, else 0 (30_encoding.md R82). It is read from
OPC alone, so also for a reserved word of OPC 0xC (DEDUCED, log 11). -/
def dataLength (w : CommandWord) : Nat :=
  if opcField w = 0xC#4 then (immField w).toNat + ((flagField w).getLsbD 0).toNat else 0

/-- What a command word is (30_encoding.md R93). -/
inductive WordClass where
  | row (op : Opcode)
  | outOfScope
  | illegal
deriving DecidableEq, Repr

/-- The decoding procedure of 30_encoding.md R93. -/
def classify (w : CommandWord) : WordClass :=
  match opcodeMap.find? (fun r => r.selects w) with
  | some r => .row r.opcode
  | none => if opcField w = 0xD#4 ∨ opcField w = 0xE#4 then .outOfScope else .illegal

/-- Why a byte string is no command of the opcode map. -/
inductive DecodeError where
  /-- Too few or too many bytes for its command word (30_encoding.md R83); also fewer bytes than a word (log 13). -/
  | illFormed
  /-- An out-of-scope word (30_encoding.md R91). -/
  | outOfScope (w : CommandWord)
  /-- An illegal word (30_encoding.md R88 to R90). -/
  | illegal (w : CommandWord)
deriving DecidableEq, Repr

/-- An addressed variant's data phase: byte 0 is the address A, the rest the payload P (30_encoding.md R82). The data
phase is never empty there, since D = n + 1. -/
def splitAddressed (mk : Byte → List Byte → Instr) (data : List Byte) : Except DecodeError Instr :=
  match data with
  | address :: payload => .ok (mk address payload)
  | [] => .error .illFormed

/-- The operands of each row (30_encoding.md R82, R85, R86). -/
def operands (op : Opcode) (w : CommandWord) (data : List Byte) : Except DecodeError Instr :=
  match op with
  | .cfgFrame => .ok (.cfgFrame ((flagField w).getLsbD 1) ((flagField w).getLsbD 0))
  | .cfgAes => .ok (.cfgAes ((flagField w).getLsbD 0))
  | .cfgSlots => .ok (.cfgSlots (immField w))
  | .cfgPayload => .ok (.cfgPayload (immField w))
  | .setHighpower => .ok .setHighpower
  | .setPower => .ok (.setPower (immField w) ((flagField w).getLsbD 0))
  | .receive => .ok .receive
  | .poll => .ok .poll
  | .available => .ok .available
  | .read => .ok .read
  | .canSend => .ok .canSend
  | .send => .ok (.send data)
  | .sendAddr => splitAddressed .sendAddr data
  | .sendVar => .ok (.sendVar data)
  | .sendAddrVar => splitAddressed .sendAddrVar data

/-- The decoder on a command word and its data phase. The link's length check comes first (30_encoding.md R83: the CORE
never sees an ill-formed command; DEDUCED, log 12). -/
def decodeCommand (w : CommandWord) (data : List Byte) : Except DecodeError Instr :=
  if data.length = dataLength w then
    match classify w with
    | .row op => operands op w data
    | .outOfScope => .error (.outOfScope w)
    | .illegal => .error (.illegal w)
  else .error .illFormed

/-- The word two bytes of the link carry, the high byte first (30_encoding.md R80). -/
def wordOfBytes (high low : Byte) : CommandWord := high ++ low

/-- `v[15:8]` of a command word (30_encoding.md R80). -/
def highByte (w : CommandWord) : Byte := w.extractLsb' 8 8

/-- `v[7:0]` of a command word (30_encoding.md R80). -/
def lowByte (w : CommandWord) : Byte := w.extractLsb' 0 8

/-- The decoder, total on any byte string the link delimits (30_encoding.md R93). -/
def decode (bytes : List Byte) : Except DecodeError Instr :=
  match bytes with
  | high :: low :: data => decodeCommand (wordOfBytes high low) data
  | _ => .error .illFormed

/-- One flag bit in place (30_encoding.md R94: `vl<<9`, `ad<<8`). -/
def flagAt (b : Bool) (k : Nat) : CommandWord := (BitVec.ofBool b).setWidth 16 <<< k

/-- An immediate in bits 7:0 (30_encoding.md R80, R94). -/
def immediate (b : Byte) : CommandWord := b.setWidth 16

/-- The payload length as the IMM byte (30_encoding.md R94: `0xC000 | len(P)`). -/
def lengthImmediate (payload : List Byte) : CommandWord := immediate (BitVec.ofNat 8 payload.length)

/-- The command word of an instruction (30_encoding.md R94). -/
def encodeWord : Instr → CommandWord
  | .cfgFrame vl ad => 0x1000#16 ||| flagAt vl 9 ||| flagAt ad 8
  | .cfgAes e => 0x2000#16 ||| flagAt e 8
  | .cfgSlots nReq => 0x3000#16 ||| immediate nReq
  | .cfgPayload pReq => 0x4000#16 ||| immediate pReq
  | .setHighpower => 0x5000#16
  | .setPower dbm b => 0x6000#16 ||| flagAt b 8 ||| immediate dbm
  | .receive => 0x7000#16
  | .poll => 0x8000#16
  | .available => 0x9000#16
  | .read => 0xA000#16
  | .canSend => 0xB000#16
  | .send payload => 0xC000#16 ||| lengthImmediate payload
  | .sendAddr _ payload => 0xC100#16 ||| lengthImmediate payload
  | .sendVar payload => 0xC200#16 ||| lengthImmediate payload
  | .sendAddrVar _ payload => 0xC300#16 ||| lengthImmediate payload

/-- The data phase of an instruction (30_encoding.md R82, R94). -/
def encodeData : Instr → List Byte
  | .cfgFrame _ _ => []
  | .cfgAes _ => []
  | .cfgSlots _ => []
  | .cfgPayload _ => []
  | .setHighpower => []
  | .setPower _ _ => []
  | .receive => []
  | .poll => []
  | .available => []
  | .read => []
  | .canSend => []
  | .send payload => payload
  | .sendAddr address payload => address :: payload
  | .sendVar payload => payload
  | .sendAddrVar address payload => address :: payload

/-- A command word and a data phase as the link carries them, the word's high byte first (30_encoding.md R80). -/
def linkBytes (w : CommandWord) (data : List Byte) : List Byte := highByte w :: lowByte w :: data

/-- The encoder: the bytes of an instruction on the link. -/
def encode (i : Instr) : List Byte := linkBytes (encodeWord i) (encodeData i)

/-- The bytes of a table word, numbered as opcode_table.json numbers them: bits 15:0 are the command word, data byte k
is bits 16+8k+7 : 16+8k, every bit from nbits on is 0, and the data phase has the length the word asks for. -/
def tableBytes (nbits w : Nat) : List Byte :=
  let bits := w % 2 ^ nbits
  let word : CommandWord := BitVec.ofNat 16 bits
  linkBytes word ((List.range (dataLength word)).map fun k => BitVec.ofNat 8 (bits >>> (16 + 8 * k)))

/-- The instruction the decoder reads from a table word. -/
def decodeTableWord (nbits w : Nat) : Option Instr :=
  match decode (tableBytes nbits w) with
  | .ok i => some i
  | .error _ => none

end Sys2Proof
end

