-- ==== Sys2Proof/Machine/HostEvent.lean ====
section
/-! DEFINITION. What the host presents to the CORE: commands, and resets (10_state.md R21). -/

namespace Sys2Proof.Machine

/-- What the host presents on the command port (10_state.md R21, 20_memory.md R60) and when it applies reset
(70_reset_and_hazards.md R250). -/
inductive HostEvent where
  /-- A command, as the byte string the link delimits (30_encoding.md R93), with no reset before its end. -/
  | command (bytes : List Byte)
  /-- Reset, with no command in progress but one that waits on a stalled transaction. -/
  | reset
  /-- A command, and reset while it is in progress: after its last step before its response, or where it waits on a
  stalled transaction (log 7). -/
  | abandoned (bytes : List Byte)
deriving DecidableEq, Repr, Inhabited

end Sys2Proof.Machine
end

