-- ==== Sys2Proof/Machine/Transaction.lean ====
section
/-! DEFINITION. The transport transactions the CORE issues, by name and operands (20_memory.md R53, R54), and the
chip register accesses that realise them (00_scope.md R9, `TRANSPORT_ENCODING`). -/

namespace Sys2Proof.Machine

/-- The operand of `T_OPMODE`: the CORE never issues `T_OPMODE(Transmitter)` (20_memory.md R54). -/
inductive OpMode where
  | standby
  | receiver
deriving DecidableEq, Repr

/-- The enter conditions of `T_AUTOMODE` (20_memory.md R54). -/
inductive EnterCondition where
  | payloadReadyRising
  | fifoLevelRising
deriving DecidableEq, Repr

/-- The exit conditions of `T_AUTOMODE` (20_memory.md R54). -/
inductive ExitCondition where
  | fifoNotEmptyFalling
  | packetSentRising
deriving DecidableEq, Repr

/-- The intermediate modes of `T_AUTOMODE` (20_memory.md R54). -/
inductive IntermediateMode where
  | standby
  | transmitter
deriving DecidableEq, Repr

/-- An (enter, exit, intermediate) triple (10_state.md R37, 20_memory.md R54). -/
structure AutoMode where
  enter : EnterCondition
  exit : ExitCondition
  intermediate : IntermediateMode
deriving DecidableEq, Repr

/-- The operand of `T_BOOST1` and `T_BOOST2` (20_memory.md R54). -/
inductive Switch where
  | off
  | on
deriving DecidableEq, Repr

/-- The amplifier stage sets of `T_PALEVEL`: S0, S1, and S1 with S2 (00_scope.md R14, 20_memory.md R54). -/
inductive Stages where
  | s0
  | s1
  | s1s2
deriving DecidableEq, Repr

/-- The transport transactions of 20_memory.md R54, with their operands. -/
inductive Transaction where
  /-- `T_OPMODE(m)`, sequencing always enabled. -/
  | opMode (m : OpMode)
  /-- `T_AUTOMODE(en, ex, im)`. -/
  | autoMode (a : AutoMode)
  /-- `T_BOOST1(b)`. -/
  | boost1 (b : Switch)
  /-- `T_BOOST2(b)`. -/
  | boost2 (b : Switch)
  /-- `T_OCP_OFF`. -/
  | ocpOff
  /-- `T_PALEVEL(st, v)`, v in 0..31. -/
  | paLevel (st : Stages) (v : BitVec 5)
  /-- `T_CFG_FRAME(vl, ad)`. -/
  | cfgFrame (vl ad : Bool)
  /-- `T_CFG_AES(e)`. -/
  | cfgAes (e : Bool)
  /-- `T_CFG_LEN(pc)`, pc in 0..66. -/
  | cfgLen (pc : BitVec 7)
  /-- `T_FLAGS1`, which returns one byte. -/
  | flags1
  /-- `T_FIFO_WRITE(s)`, the first byte of s into the FIFO first (20_memory.md R55). -/
  | fifoWrite (s : List Byte)
  /-- `T_FIFO_READ(n)`, which returns n bytes. -/
  | fifoRead (n : Nat)
deriving DecidableEq, Repr

/-- One access to the chip's registers or FIFO, the target of `TRANSPORT_ENCODING` (20_memory.md R66 (2), (3);
60_exceptions.md R234). The spec gives a register's value as a byte and leaves its address to the encoding; that an
address has 8 bits is the model's choice (DESIGN CHOICE, log 19). -/
inductive ChipAccess where
  | writeRegister (address : Byte) (value : Byte)
  | readRegister (address : Byte)
  | writeFifo (bytes : List Byte)
  | readFifo (length : Nat)
deriving DecidableEq, Repr

end Sys2Proof.Machine
end

