-- ==== Sys2Proof/Config.lean ====
section
/-! DEFINITION. What an implementation fixes, and what the chip and the host are free to do without end: the parameters
the spec leaves OPEN (00_scope.md R9; 92_eei_decisions.md D9, D14, D15), the draws (20_memory.md R56), the stalls (R57)
and the commands (10_state.md R21). Each is an opaque constant with no
body, so a claim about the machine holds whatever its value. -/

namespace Sys2Proof

/-- The parameters a rule of the CORE reads. The meanings take them as an argument, so that a test can supply the ones
of a test vector; `exec` supplies `Config.params`. -/
structure Params where
  /-- `ARENA_BYTES`, the slot arena's capacity (20_memory.md R50; 92_eei_decisions.md D9). -/
  arenaBytes : Nat
  /-- `AM_BIT`, the position of automode-active in flags1, in 0..7 (10_state.md R36; 92_eei_decisions.md D14). -/
  amBit : Fin 8
deriving DecidableEq, Repr

/-- How far `ARENA_BYTES` exceeds 67, its least value (00_scope.md R9). OPEN. -/
opaque Config.arenaExtra : Nat

/-- `AM_BIT` (00_scope.md R9). OPEN: the default 1 is general knowledge and is not assumed (log 10). -/
opaque Config.amBit : Fin 8

/-- The parameters of the machine: `ARENA_BYTES ≥ 67` holds by its form (00_scope.md R9). -/
def Config.params : Params where
  arenaBytes := Config.arenaExtra + 67
  amBit := Config.amBit

/-- `TRANSPORT_ENCODING`: the chip accesses that realise a transaction (20_memory.md R53; 92_eei_decisions.md D15).
OPEN: no rule of the CORE depends on it. -/
opaque Config.transportEncoding : Machine.Transaction → List Machine.ChipAccess

/-- The k-th byte the chip answers once the answers listed in the state have run out: a draw under no law
(20_memory.md R56, log 4). A free value. -/
opaque Config.chipDraw : Nat → Byte

/-- The k-th event of a host without end, once the events listed in the state have run out (10_state.md R21: the list of
commands is finite or infinite, log 5). A free value. -/
opaque Config.hostEvent : Nat → Machine.HostEvent

/-- How many transactions complete before the k-th stall of a chip that stalls without end, counted from the reset after
the stall before it, once the stalls listed in the state have run out (20_memory.md R57, log 2). A free value. -/
opaque Config.stallGap : Nat → Nat

end Sys2Proof
end

