-- ==== Sys2Proof/Machine/State.lean ====
section
/-! DEFINITION. Everything the spec gives the machine, as plain data (10_state.md; 20_memory.md R50, R54; the ports of
00_scope.md R4), the reasons a step can stop, and the state after reset (70_reset_and_hazards.md R252). -/

namespace Sys2Proof.Machine

/-- RadioState: 1 bit, so there is no third value (10_state.md R22, 41_state_machine.md R145). -/
inductive RadioState where
  | receiving
  | sending
deriving DecidableEq, Repr

/-- The configuration phase: OPEN, SIZED, READY (10_state.md R31). -/
inductive Phase where
  | opened
  | sized
  | ready
deriving DecidableEq, Repr

/-- The hardware class (10_state.md R32). -/
inductive HardwareClass where
  | standard
  | highPower
deriving DecidableEq, Repr

/-- The CORE's fault codes (60_exceptions.md R220). -/
inductive FaultCode where
  | illegalCommand
  | configOrder
  | badOperand
  | notReady
  | layoutMismatch
  | lengthMismatch
  | arenaOverflow
deriving DecidableEq, Repr

/-- A value of the FAULT register: the code and the command word that raised it (10_state.md R34). -/
structure FaultEntry where
  code : FaultCode
  word : CommandWord
deriving DecidableEq, Repr

/-- `g_opmode` (10_state.md R37). -/
inductive GhostMode where
  | unknown
  | standby
  | receiver
  | transmitter
deriving DecidableEq, Repr

/-- `g_boost1` and `g_boost2` (10_state.md R37). -/
inductive GhostBoost where
  | unknown
  | off
  | on
deriving DecidableEq, Repr

/-- `g_ocp` (10_state.md R37). -/
inductive GhostOcp where
  | unknown
  | off
deriving DecidableEq, Repr

/-- The five ghost fields: the last value the CORE wrote through each chip-side setting (10_state.md R37). No rule of
the CORE reads one. -/
structure Ghost where
  opMode : GhostMode
  /-- `g_automode`: none is Unknown. -/
  autoMode : Option AutoMode
  boost1 : GhostBoost
  boost2 : GhostBoost
  ocp : GhostOcp
deriving DecidableEq, Repr

/-- The bytes written since reset, by rising address (20_memory.md R50, R52). An address that is not listed holds no
value. -/
abbrev Memory := List Host.Cell

/-- The machine's state. The first block is the register file (10_state.md R39), then the arena, the ghost state, what
the ports have shown, and the inputs of host and chip. -/
structure State where
  /-- `state` (10_state.md R22). -/
  radio : RadioState
  /-- `VL` (10_state.md R23). -/
  vl : Bool
  /-- `AD` (10_state.md R24). -/
  ad : Bool
  /-- `AES` (10_state.md R25). -/
  aes : Bool
  /-- `P_user` (10_state.md R26). -/
  pUser : BitVec 7
  /-- `PC`, the internal payload capacity (10_state.md R27); the CORE has no program counter (R21). -/
  pc : BitVec 7
  /-- `C`, the slot size in bytes (10_state.md R28). -/
  c : BitVec 7
  /-- `N`, the slot count; 0 is "not chosen" (10_state.md R29). -/
  n : BitVec 8
  /-- `w_idx` (10_state.md R30). -/
  wIdx : BitVec 8
  /-- `r_idx` (10_state.md R30). -/
  rIdx : BitVec 8
  /-- `phase` (10_state.md R31). -/
  phase : Phase
  /-- `HP` (10_state.md R32). -/
  hp : HardwareClass
  /-- `BOOST` (10_state.md R33). -/
  boost : Bool
  /-- `FAULT` (10_state.md R34). -/
  fault : Option FaultEntry
  /-- `Arena`, the slot arena (20_memory.md R50). -/
  arena : Memory
  /-- The ghost fields (10_state.md R37). -/
  ghost : Ghost
  /-- The responses placed, oldest first (30_encoding.md R84, 70_reset_and_hazards.md R257). -/
  responses : List (List Byte)
  /-- The transport transactions completed, oldest first (20_memory.md R61, 70_reset_and_hazards.md R257). -/
  trace : List Transaction
  /-- The transaction that never completes and blocks the CORE (20_memory.md R57, 60_exceptions.md R227). -/
  blocked : Option Transaction
  /-- INPUT: what the host presents, first first (10_state.md R21, 20_memory.md R60). -/
  port : List HostEvent
  /-- INPUT: what follows the last of `port`: none is a host that presents nothing more, some k a host without end that
  presents `Config.hostEvent` at k, k + 1, and so on (10_state.md R21, log 5). -/
  hostCursor : Option Nat
  /-- INPUT: the bytes the chip answers next, first first (20_memory.md R56). -/
  chipBytes : List Byte
  /-- The model's counter of free bytes drawn after `chipBytes` ran out (20_memory.md R56, log 4). -/
  drawn : Nat
  /-- INPUT: for each stall to come, how many transactions complete before it (20_memory.md R57, log 2). -/
  stalls : List Nat
  /-- INPUT: what follows the last of `stalls` once it has come: none is no more stall, some k stalls without end, at
  the distances `Config.stallGap` gives for k, k + 1, and so on (20_memory.md R57, log 2). -/
  stallCursor : Option Nat
deriving DecidableEq, Repr

/-- Why the model stops. Neither reason is a fault of the CORE: those are next states with FAULT written
(60_exceptions.md R221). No run from reset reaches either (20_memory.md R50, R52). -/
inductive Fault where
  /-- Raised by READ on an arena byte that no drain has written since reset. Safe: the spec leaves the byte open and
  lets a model fault (20_memory.md R52, log 8). -/
  | unwrittenArenaByte (address : Nat)
  /-- Raised by READ and by the drain on an address outside 0 .. ARENA_BYTES-1. Safe: the address does not exist
  (20_memory.md R66, log 9). -/
  | arenaAddress (address : Nat)
deriving DecidableEq, Repr

/-- Why the model gives a command no meaning (60_exceptions.md R226). -/
inductive Refusal where
  /-- Raised by `exec` for an instruction that has no meaning yet. Safe. No instruction of this model is left so. -/
  | notModelled (mnemonic : String)
  /-- Raised by `step` on a word of OPC 0xD or 0xE (30_encoding.md R91, 60_exceptions.md R226 (a)). Safe. -/
  | outOfScope (word : CommandWord)
  /-- Raised by `step` on a command whose data phase has the wrong length (30_encoding.md R83, 60_exceptions.md R226
  (b)). Safe. -/
  | illFormed
deriving DecidableEq, Repr

/-- Every ghost field Unknown (10_state.md R37). -/
def Ghost.reset : Ghost where
  opMode := .unknown
  autoMode := none
  boost1 := .unknown
  boost2 := .unknown
  ocp := .unknown

/-- The state after reset: the registers as 70_reset_and_hazards.md R252 gives them, an arena with nothing listed
(log 8), no command presented, no answer listed and nothing shown yet (log 2, 4, 5, 6). -/
def State.reset : State where
  radio := .receiving
  vl := false
  ad := false
  aes := false
  pUser := 0#7
  pc := 0#7
  c := 0#7
  n := 0#8
  wIdx := 0#8
  rIdx := 0#8
  phase := .opened
  hp := .standard
  boost := false
  fault := none
  arena := []
  ghost := Ghost.reset
  responses := []
  trace := []
  blocked := none
  port := []
  hostCursor := none
  chipBytes := []
  drawn := 0
  stalls := []
  stallCursor := none

end Sys2Proof.Machine
end

