-- ==== Sys2Proof/Machine/Operands.lean ====
section
/-! DEFINITION. How a rule reads its operands, and the numbers it computes from them (00_scope.md R11). -/

namespace Sys2Proof.Machine

/-- `zext_8(b)`: the unsigned value of a byte (00_scope.md R11). -/
def zext8 (b : Byte) : Nat := b.toNat

/-- `sext_8(b)`: the two's-complement value of a byte (00_scope.md R11). -/
def sext8 (b : Byte) : Int := b.toInt

/-- `clamp(x, lo, hi) = min(max(x, lo), hi)` (00_scope.md R11). -/
def clamp (x lo hi : Int) : Int := min (max x lo) hi

/-- A one-bit register as a number. -/
def bit (b : Bool) : Nat := b.toNat

/-- The payload length n of a SEND command: `len(P) = n` (30_encoding.md R82). -/
def payloadLength (payload : List Byte) : Nat := payload.length

/-- A length as a byte of a frame or of a response (30_encoding.md R84, 43_frame_codec.md R180). -/
def lengthByte (len : Nat) : Byte := BitVec.ofNat 8 len

/-- `PC = P_req + AD + VL` (40_configuration.md R116). -/
def internalCapacity (pReq : Nat) (ad vl : Bool) : Nat := pReq + bit ad + bit vl

/-- `C = PC + VL` (40_configuration.md R116). -/
def slotSize (capacity : Nat) (vl : Bool) : Nat := capacity + bit vl

/-- `base = i * C`, the first arena byte of slot i (20_memory.md R50). -/
def slotBase (i : BitVec 8) (s : State) : Nat := i.toNat * s.c.toNat

end Sys2Proof.Machine
end

