-- ==== Sys2Proof/Machine/Flags.lean ====
section
/-! DEFINITION. The status values (10_state.md R35), the one flag bit the CORE tests (R36), and the numbers that encode
the named register values (10_state.md R22, R31, R32; 60_exceptions.md R220). -/

namespace Sys2Proof.Machine

/-- `AVAIL = (r_idx != w_idx)` (10_state.md R35). -/
def availFlag (s : State) : Bool := decide (s.rIdx ≠ s.wIdx)

/-- `CANSEND = (state == Receiving)` (10_state.md R35). -/
def canSendFlag (s : State) : Bool := decide (s.radio = .receiving)

/-- A status value as a response byte: 0x01 for true and 0x00 for false (30_encoding.md R84). -/
def statusByte (b : Bool) : Byte := if b then 0x01#8 else 0x00#8

/-- `am = f1[AM_BIT]`, automode-active in a flags1 byte (10_state.md R36, 41_state_machine.md R140). -/
def automodeActive (k : Params) (flags1 : Byte) : Bool := flags1.getLsbD k.amBit.val

/-- The bit `state` holds (10_state.md R22). -/
def radioCode : RadioState → BitVec 1
  | .receiving => 0#1
  | .sending => 1#1

/-- The two bits `phase` holds; 3 is unused (10_state.md R31). -/
def phaseCode : Phase → BitVec 2
  | .opened => 0#2
  | .sized => 1#2
  | .ready => 2#2

/-- The bit `HP` holds (10_state.md R32). -/
def classCode : HardwareClass → BitVec 1
  | .standard => 0#1
  | .highPower => 1#1

/-- The 4-bit fault codes (60_exceptions.md R220). -/
def faultCode : FaultCode → BitVec 4
  | .illegalCommand => 0x1#4
  | .configOrder => 0x2#4
  | .badOperand => 0x3#4
  | .notReady => 0x4#4
  | .layoutMismatch => 0x5#4
  | .lengthMismatch => 0x6#4
  | .arenaOverflow => 0x7#4

end Sys2Proof.Machine
end

