-- ==== Sys2Proof/Machine/Memory.lean ====
section
/-! DEFINITION. The arena's cells: a list of (address, byte) pairs in one canonical form, the addresses strictly rising.
An address that is not listed holds no value (20_memory.md R52, log 8), so no entry can equal what it reads as. -/

namespace Sys2Proof.Machine

/-- The byte at an address, none where nothing has been written (20_memory.md R52). -/
def Memory.read? : Memory → Nat → Option Byte
  | [], _ => none
  | (key, byte) :: rest, address => if address = key then some byte else Memory.read? rest address

/-- `Arena[address] <- byte`, in place or at its place in the order (20_memory.md R50). -/
def Memory.write : Memory → Nat → Byte → Memory
  | [], address, byte => [(address, byte)]
  | (key, old) :: rest, address, byte =>
    if address < key then (address, byte) :: (key, old) :: rest
    else if address = key then (key, byte) :: rest
    else (key, old) :: Memory.write rest address byte

/-- `MemWrite(address, n, bytes)`: n one-byte writes at rising addresses (20_memory.md R51). -/
def Memory.writeAll : Memory → Nat → List Byte → Memory
  | m, _, [] => m
  | m, address, b :: bs => Memory.writeAll (Memory.write m address b) (address + 1) bs

/-- Every listed address is greater than the bound. -/
def Memory.above (bound : Nat) (m : Memory) : Bool := m.all fun cell => decide (bound < cell.1)

/-- The canonical form: addresses strictly rising. -/
def Memory.wf : Memory → Bool
  | [] => true
  | (key, _) :: rest => Memory.above key rest && Memory.wf rest

end Sys2Proof.Machine
end

