-- ==== Sys2Proof/Machine/Ops.lean ====
section
/-! DEFINITION. The operations the meanings share (00_scope.md R12): transactions, draws, arena accesses, responses,
the fault entry, and reset, the only way out of a fault. -/

namespace Sys2Proof.Machine

/-- How a sequence of steps of one command ends: all done, with a value; blocked in a transaction that never completes
(20_memory.md R57); or stopped by the model. -/
inductive Run (α : Type) where
  | done (a : α) (s : State)
  | stalled (s : State)
  | faulted (f : Fault)
deriving DecidableEq, Repr

/-- The next steps of a command, taken once the ones before are done (20_memory.md R61). -/
def Run.andThen {α β : Type} (r : Run α) (f : α → State → Run β) : Run β :=
  match r with
  | .done a s => f a s
  | .stalled s => .stalled s
  | .faulted e => .faulted e

/-! ## Register writes, each by name (00_scope.md R12) -/

/-- `state <- r` (10_state.md R22). -/
def State.setRadio (r : RadioState) (s : State) : State := { s with radio := r }

/-- `VL <- vl` and `AD <- ad` (10_state.md R23, R24). -/
def State.setFrameMode (vl ad : Bool) (s : State) : State := { s with vl := vl, ad := ad }

/-- `AES <- e` (10_state.md R25). -/
def State.setAes (e : Bool) (s : State) : State := { s with aes := e }

/-- `N <- n` and `phase <- SIZED` (10_state.md R29, R31). -/
def State.chooseSlots (n : BitVec 8) (s : State) : State := { s with n := n, phase := .sized }

/-- `r_idx <- i` (10_state.md R30). -/
def State.setReadIndex (i : BitVec 8) (s : State) : State := { s with rIdx := i }

/-- `HP <- c` (10_state.md R32). -/
def State.setClass (c : HardwareClass) (s : State) : State := { s with hp := c }

/-- `BOOST <- b` (10_state.md R33). -/
def State.setBoost (b : Bool) (s : State) : State := { s with boost := b }

/-- `FAULT <- (code, word)` (10_state.md R34). -/
def State.setFault (code : FaultCode) (word : CommandWord) (s : State) : State :=
  { s with fault := some { code := code, word := word } }

/-- The arena with other contents (20_memory.md R50). -/
def State.setArena (m : Memory) (s : State) : State := { s with arena := m }

/-- The stalls to come once one has come: the listed ones, and after the last of them the next free one, if there is
any (log 2). -/
def stallsToCome (rest : List Nat) (cursor : Option Nat) : List Nat × Option Nat :=
  match rest, cursor with
  | [], some k => ([Config.stallGap k], some (k + 1))
  | [], none => ([], none)
  | k :: ks, c => (k :: ks, c)

/-- The CORE blocked in a transaction (20_memory.md R57); `rest` are the listed stalls still to come. -/
def State.block (op : Transaction) (rest : List Nat) (s : State) : State :=
  { s with
    blocked := some op
    stalls := (stallsToCome rest s.stallCursor).1
    stallCursor := (stallsToCome rest s.stallCursor).2 }

/-- `respond(v)` (00_scope.md R12): the response is placed last. -/
def State.respond (v : List Byte) (s : State) : State := { s with responses := s.responses ++ [v] }

/-- The end of a command: its response is placed if every step was done; a stalled command places none
(30_encoding.md R84, 20_memory.md R57). -/
def finish (r : Run (List Byte)) : Host.Outcome State Fault Refusal :=
  match r with
  | .done v s => .next (s.respond v)
  | .stalled s => .next s
  | .faulted f => .fault f

/-! ## The fault entry, and the way out of it -/

/-- `raise Fault(code)`: FAULT <- (code, word), no response, every other register as it was (60_exceptions.md R221). -/
def raiseFault (code : FaultCode) (word : CommandWord) (s : State) : Host.Outcome State Fault Refusal :=
  .next (s.setFault code word)

/-- Reset: every register, the arena and the ghost fields at their reset values, the command in progress abandoned, no
transaction issued (70_reset_and_hazards.md R250, R251, R252). What the ports have shown stays shown, and the inputs
stay what they are (log 6). -/
def State.applyReset (s : State) : State :=
  { State.reset with
    responses := s.responses
    trace := s.trace
    port := s.port
    hostCursor := s.hostCursor
    chipBytes := s.chipBytes
    drawn := s.drawn
    stalls := s.stalls
    stallCursor := s.stallCursor }

/-- Reset with a command in progress that has come to its response, or to a stall: the command is abandoned and places
no response; `shown` are the responses placed before it (70_reset_and_hazards.md R250, 30_encoding.md R84, log 7). The
transactions it has completed stay completed. -/
def State.abandonCommand (shown : List (List Byte)) (s : State) : State := State.applyReset { s with responses := shown }

/-- The end of an abandoned command, from how it would have ended. -/
def abandon (shown : List (List Byte)) (o : Host.Outcome State Fault Refusal) : Host.Outcome State Fault Refusal :=
  match o with
  | .next s => .next (s.abandonCommand shown)
  | .fault f => .fault f
  | .refused r => .refused r

/-! ## Transport transactions -/

/-- The ghost value of a boost transaction (20_memory.md R54). -/
def ghostBoost : Switch → GhostBoost
  | .off => .off
  | .on => .on

/-- The ghost value of an operating mode (20_memory.md R54). -/
def ghostMode : OpMode → GhostMode
  | .standby => .standby
  | .receiver => .receiver

/-- The ghost update of a completed transaction (20_memory.md R54). -/
def Ghost.after (g : Ghost) (op : Transaction) : Ghost :=
  match op with
  | .opMode m => { g with opMode := ghostMode m }
  | .autoMode a => { g with autoMode := some a }
  | .boost1 b => { g with boost1 := ghostBoost b }
  | .boost2 b => { g with boost2 := ghostBoost b }
  | .ocpOff => { g with ocp := .off }
  | .paLevel _ _ => g
  | .cfgFrame _ _ => g
  | .cfgAes _ => g
  | .cfgLen _ => g
  | .flags1 => g
  | .fifoWrite _ => g
  | .fifoRead _ => g

/-- The stalls to come after one more transaction has completed. -/
def stallsAfter : List Nat → List Nat
  | [] => []
  | k :: rest => (k - 1) :: rest

/-- The state once a transaction has completed (20_memory.md R54, R57). -/
def State.completed (op : Transaction) (s : State) : State :=
  { s with trace := s.trace ++ [op], ghost := s.ghost.after op, stalls := stallsAfter s.stalls }

/-- The state once several transactions have completed, in order. -/
def State.completedAll : List Transaction → State → State
  | [], s => s
  | op :: ops, s => State.completedAll ops (s.completed op)

/-- `T(op)`: wait until it completes; if it never does, the CORE is blocked in it (00_scope.md R12, 20_memory.md R57).
A stalled transaction leaves no trace entry and no ghost update (log 3). -/
def issue (op : Transaction) (s : State) : Run Unit :=
  match s.stalls with
  | 0 :: rest => .stalled (s.block op rest)
  | _ => .done () (s.completed op)

/-- Several transactions, in order, each completed before the next (20_memory.md R61). -/
def issueAll : List Transaction → State → Run Unit
  | [], s => .done () s
  | op :: ops, s => (issue op s).andThen fun _ s' => issueAll ops s'

/-! ## Draws (20_memory.md R56) -/

/-- The byte the chip answers next: listed in the state, or else a free value. -/
def State.nextDraw (s : State) : Byte :=
  match s.chipBytes with
  | b :: _ => b
  | [] => Config.chipDraw s.drawn

/-- The state once that byte has been taken. -/
def State.dropDraw (s : State) : State :=
  match s.chipBytes with
  | _ :: rest => { s with chipBytes := rest }
  | [] => { s with drawn := s.drawn + 1 }

/-- The next n bytes the chip answers, the first-out byte first (20_memory.md R55): exactly n (R56). -/
def State.draws : Nat → State → List Byte
  | 0, _ => []
  | n + 1, s => s.nextDraw :: State.draws n s.dropDraw

/-- The state once those n bytes have been taken. -/
def State.dropDraws : Nat → State → State
  | 0, s => s
  | n + 1, s => State.dropDraws n s.dropDraw

/-- `x <- T(op)` for a transaction that returns one byte. -/
def issueForByte (op : Transaction) (s : State) : Run Byte :=
  (issue op s).andThen fun _ s' => .done s'.nextDraw s'.dropDraw

/-- `x <- T(T_FLAGS1)` (20_memory.md R54). -/
def readFlags1 (s : State) : Run Byte := issueForByte .flags1 s

/-- `x <- T(T_FIFO_READ(1))`: a FIFO read of one byte. -/
def readFifoByte (s : State) : Run Byte := issueForByte (.fifoRead 1) s

/-- `x <- T(T_FIFO_READ(n))`: exactly n bytes (20_memory.md R54, R56). -/
def readFifo (n : Nat) (s : State) : Run (List Byte) :=
  (issue (.fifoRead n) s).andThen fun _ s' => .done (s'.draws n) (s'.dropDraws n)

/-! ## Arena accesses, one byte each (20_memory.md R51) -/

/-- `Arena[a] <- b`. An address from ARENA_BYTES on does not exist (20_memory.md R66, log 9). -/
def arenaWrite (k : Params) (a : Nat) (b : Byte) (s : State) : Run Unit :=
  if a < k.arenaBytes then .done () (s.setArena (Memory.write s.arena a b)) else .faulted (.arenaAddress a)

/-- `MemWrite(a, n, v)`: n one-byte writes in increasing order (20_memory.md R51). -/
def memWrite (k : Params) : Nat → List Byte → State → Run Unit
  | _, [], s => .done () s
  | a, b :: bs, s => (arenaWrite k a b s).andThen fun _ s' => memWrite k (a + 1) bs s'

/-- `Arena[a]`. A byte that nothing has written since reset holds no value (20_memory.md R52, log 8). -/
def arenaRead (k : Params) (a : Nat) (s : State) : Run Byte :=
  if a < k.arenaBytes then
    match Memory.read? s.arena a with
    | some b => .done b s
    | none => .faulted (.unwrittenArenaByte a)
  else .faulted (.arenaAddress a)

/-- `MemRead(a, n)`: the n bytes at a .. a+n-1 (20_memory.md R51). -/
def memRead (k : Params) : Nat → Nat → State → Run (List Byte)
  | _, 0, s => .done [] s
  | a, n + 1, s =>
    (arenaRead k a s).andThen fun b s' => (memRead k (a + 1) n s').andThen fun bs s'' => .done (b :: bs) s''

end Sys2Proof.Machine
end

