-- ==== Sys2Proof/Machine/CommandPort.lean ====
section
/-! DEFINITION. The host command port: what the CORE takes from it (20_memory.md R60, 60_exceptions.md R221, R226,
70_reset_and_hazards.md R250), and how a test places a command on it. -/

namespace Sys2Proof.Machine

/-- What the port offers the CORE for one step. -/
inductive Offer where
  /-- Nothing to take: no command is presented, or the CORE accepts none. -/
  | wait
  /-- The host applies reset; the state is the one with that event taken. -/
  | reset (taken : State)
  /-- A well-formed command of the opcode map, and the state with it taken. -/
  | run (i : Instr) (taken : State)
  /-- A well-formed command that reset abandons, and the state with the event taken. -/
  | abandon (i : Instr) (taken : State)
  /-- An illegal word, and the state with it taken. -/
  | illegal (word : CommandWord) (taken : State)
  /-- A byte string the model gives no meaning. -/
  | refuse (r : Refusal)
deriving DecidableEq, Repr

/-- Whether the CORE accepts a command: not once it has faulted (60_exceptions.md R221), nor while it is blocked
(20_memory.md R57). -/
def accepting (s : State) : Bool := s.fault.isNone && s.blocked.isNone

/-- What the decoder makes of a command taken from the port. -/
def takeCommand (bytes : List Byte) (taken : State) : Offer :=
  match decode bytes with
  | .ok i => .run i taken
  | .error (.illegal w) => .illegal w taken
  | .error (.outOfScope w) => .refuse (.outOfScope w)
  | .error .illFormed => .refuse .illFormed

/-- What the decoder makes of a command that reset abandons: one that faults leaves nothing but the reset
(60_exceptions.md R222). -/
def takeAbandoned (bytes : List Byte) (taken : State) : Offer :=
  match decode bytes with
  | .ok i => .abandon i taken
  | .error (.illegal _) => .reset taken
  | .error (.outOfScope w) => .refuse (.outOfScope w)
  | .error .illFormed => .refuse .illFormed

/-- The event the host presents next, and the list and the cursor it leaves: the first of `port`, or once that is empty
the next event of a host without end (10_state.md R21, log 5). -/
def State.nextEvent (s : State) : Option (HostEvent × List HostEvent × Option Nat) :=
  match s.port, s.hostCursor with
  | event :: rest, cursor => some (event, rest, cursor)
  | [], some k => some (Config.hostEvent k, [], some (k + 1))
  | [], none => none

/-- The port with other events to come. -/
def State.withPort (rest : List HostEvent) (cursor : Option Nat) (s : State) : State :=
  { s with port := rest, hostCursor := cursor }

/-- What one event offers. A reset may be applied at any time (70_reset_and_hazards.md R250); a command is taken only
when the CORE accepts one (20_memory.md R60) and stays presented otherwise (log 15). An abandoned command that the CORE
does not accept is a reset alone. -/
def offerEvent (accepts : Bool) (event : HostEvent) (taken : State) : Offer :=
  match event with
  | .reset => .reset taken
  | .command bytes => if accepts then takeCommand bytes taken else .wait
  | .abandoned bytes => if accepts then takeAbandoned bytes taken else .reset taken

/-- What the port offers (20_memory.md R60, 70_reset_and_hazards.md R250). -/
def offer (s : State) : Offer :=
  match s.nextEvent with
  | none => .wait
  | some (event, rest, cursor) => offerEvent (accepting s) event (s.withPort rest cursor)

/-- A command presented first, to a CORE that accepts it (log 17). -/
def presentFirst (bytes : List Byte) (s : State) : State :=
  { s with port := .command bytes :: s.port, fault := none, blocked := none }

end Sys2Proof.Machine
end

