-- ==== Sys2Proof/Machine/Configuration.lean ====
section
/-! DEFINITION. The configuration commands (40_configuration.md). -/

namespace Sys2Proof.Machine

/-- The last steps of a configuration command that writes the chip: its transaction, and then the empty response. -/
def configureChip (op : Transaction) (s : State) : Host.Outcome State Fault Refusal :=
  finish ((issue op s).andThen fun _ s' => .done [] s')

/-- CFG_FRAME (40_configuration.md R110). -/
def execCfgFrame (vl ad : Bool) (s : State) : Host.Outcome State Fault Refusal :=
  if s.phase ≠ .opened then raiseFault .configOrder (encodeWord (.cfgFrame vl ad)) s
  else configureChip (.cfgFrame vl ad) (s.setFrameMode vl ad)

/-- CFG_AES (40_configuration.md R112, R113). -/
def execCfgAes (e : Bool) (s : State) : Host.Outcome State Fault Refusal :=
  if s.phase ≠ .opened then raiseFault .configOrder (encodeWord (.cfgAes e)) s
  else configureChip (.cfgAes e) (s.setAes e)

/-- CFG_SLOTS (40_configuration.md R114): no transaction. -/
def execCfgSlots (nReq : Byte) (s : State) : Host.Outcome State Fault Refusal :=
  if s.phase = .ready then raiseFault .configOrder (encodeWord (.cfgSlots nReq)) s
  else if zext8 nReq = 0 then raiseFault .badOperand (encodeWord (.cfgSlots nReq)) s
  else finish (.done [] (s.chooseSlots nReq))

/-- The slot allocation of CFG_PAYLOAD (40_configuration.md R116): the arena is not cleared. -/
def allocateSlots (pReq capacity size : Nat) (s : State) : State :=
  { s with
    pUser := BitVec.ofNat 7 pReq
    pc := BitVec.ofNat 7 capacity
    c := BitVec.ofNat 7 size
    wIdx := 0#8
    rIdx := 0#8
    phase := .ready }

/-- CFG_PAYLOAD over the parameters k (40_configuration.md R116), the checks in the order written
(60_exceptions.md R223). -/
def execCfgPayloadWith (k : Params) (pReq : Byte) (s : State) : Host.Outcome State Fault Refusal :=
  let p := zext8 pReq
  let capacity := internalCapacity p s.ad s.vl
  let size := slotSize capacity s.vl
  if s.phase ≠ .sized then raiseFault .configOrder (encodeWord (.cfgPayload pReq)) s
  else if 64 < p then raiseFault .badOperand (encodeWord (.cfgPayload pReq)) s
  else if k.arenaBytes < s.n.toNat * size then raiseFault .arenaOverflow (encodeWord (.cfgPayload pReq)) s
  else configureChip (.cfgLen (BitVec.ofNat 7 capacity)) (allocateSlots p capacity size s)

/-- CFG_PAYLOAD (40_configuration.md R116). -/
def execCfgPayload (pReq : Byte) (s : State) : Host.Outcome State Fault Refusal :=
  execCfgPayloadWith Config.params pReq s

end Sys2Proof.Machine
end

