-- ==== Sys2Proof/Machine/PowerMapper.lean ====
section
/-! DEFINITION. The Power Level Mapper: MAP, SET_HIGHPOWER and SET_POWER (44_power.md). -/

namespace Sys2Proof.Machine

/-- What `MAP` returns: the stage set, the 5-bit register value, the new BOOST, and whether to disable OCP
(44_power.md R202). -/
structure PowerSetting where
  stages : Stages
  value : BitVec 5
  boost : Bool
  disableOcp : Bool
deriving DecidableEq, Repr

/-- The 5-bit register value (44_power.md R202, R204). -/
def powerValue (v : Int) : BitVec 5 := BitVec.ofInt 5 v

/-- The upper clamp bound of the HighPower class: 20 with boost, 17 without (44_power.md R202). -/
def highPowerLimit (b : Bool) : Int := if b then 20 else 17

/-- The stages and the value of the HighPower class, for the clamped level q (44_power.md R202). -/
def highPowerStages (q : Int) : Stages × BitVec 5 :=
  if q ≤ 13 then (.s1, powerValue (q + 18)) else (.s1s2, powerValue (q + 11))

/-- `MAP(p, b, hp)` (44_power.md R202); the Standard class ignores b (R207). -/
def powerMap (p : Int) (b : Bool) (hp : HardwareClass) : PowerSetting :=
  match hp with
  | .standard =>
    { stages := .s0, value := powerValue (clamp p (-18) 13 + 18), boost := false, disableOcp := false }
  | .highPower =>
    let chosen := highPowerStages (clamp p (-2) (highPowerLimit b))
    { stages := chosen.1, value := chosen.2, boost := b, disableOcp := b }

/-- SET_HIGHPOWER: HP <- HighPower, no transaction, no recomputation (44_power.md R200). -/
def execSetHighpower (s : State) : Host.Outcome State Fault Refusal :=
  finish (.done [] (s.setClass .highPower))

/-- The transactions of SET_POWER: OCP off before the level is set (44_power.md R203). -/
def powerTransactions (m : PowerSetting) : List Transaction :=
  if m.disableOcp then [.ocpOff, .paLevel m.stages m.value] else [.paLevel m.stages m.value]

/-- SET_POWER (44_power.md R203). -/
def execSetPower (dbm : Byte) (b : Bool) (s : State) : Host.Outcome State Fault Refusal :=
  let m := powerMap (sext8 dbm) b s.hp
  finish ((issueAll (powerTransactions m) s).andThen fun _ s' => .done [] (s'.setBoost m.boost))

end Sys2Proof.Machine
end

