-- ==== Sys2Proof/Machine/FrameCodec.lean ====
section
/-! DEFINITION. The Frame Codec: the transmit layouts and the receive drain (43_frame_codec.md). -/

namespace Sys2Proof.Machine

/-- `ENCODE(vv, va, A, P)` (43_frame_codec.md R180): the address is there exactly in the addressed layouts (va = 1). -/
def encodeFrame (vv : Bool) (address : Option Byte) (payload : List Byte) : List Byte :=
  match vv, address with
  | false, none => payload
  | false, some a => a :: payload
  | true, none => lengthByte (payloadLength payload) :: payload
  | true, some a => lengthByte (payloadLength payload + 1) :: a :: payload

/-- The clamped length of a variable-length drain: `L = min(zext_8(raw), C - 1)` (43_frame_codec.md R184, R185). -/
def drainLength (raw : Byte) (s : State) : Nat := min (zext8 raw) (s.c.toNat - 1)

/-- The variable-length drain into the slot at base (43_frame_codec.md R184, R185): the stored length byte is the
clamped one. -/
def drainVariable (k : Params) (base : Nat) (s : State) : Run Unit :=
  (readFifoByte s).andThen fun raw s1 =>
    (readFifo (drainLength raw s1) s1).andThen fun payload s2 =>
      (arenaWrite k base (lengthByte (drainLength raw s1)) s2).andThen fun _ s3 =>
        memWrite k (base + 1) payload s3

/-- The fixed-length drain into the slot at base (43_frame_codec.md R184, R186). -/
def drainFixed (k : Params) (base : Nat) (s : State) : Run Unit :=
  (readFifo s.pc.toNat s).andThen fun data s1 => memWrite k base data s1

/-- `DRAIN(i)` (43_frame_codec.md R184). -/
def drain (k : Params) (i : BitVec 8) (s : State) : Run Unit :=
  if s.vl then drainVariable k (slotBase i s) s else drainFixed k (slotBase i s) s

end Sys2Proof.Machine
end

