-- ==== Sys2Proof/Machine/RingBuffer.lean ====
section
/-! DEFINITION. The receive ring buffer: the push, AVAILABLE and READ (42_ring_buffer.md). -/

namespace Sys2Proof.Machine

/-- `(i + 1) mod N`, the sum taken before the reduction (42_ring_buffer.md R161). N is never 0 where a run uses it
(10_state.md R29, log 14). -/
def nextIndex (n i : BitVec 8) : BitVec 8 := BitVec.ofNat 8 ((i.toNat + 1) % n.toNat)

/-- `PUSH`: w_idx <- (w_idx + 1) mod N, and nothing else (42_ring_buffer.md R161). -/
def push (s : State) : State := { s with wIdx := nextIndex s.n s.wIdx }

/-- AVAILABLE (42_ring_buffer.md R163). -/
def execAvailable (s : State) : Host.Outcome State Fault Refusal :=
  finish (.done [statusByte (availFlag s)] s)

/-- The length of a variable-length frame: the slot's first byte, clamped to PC (42_ring_buffer.md R166, R168). -/
def readLength (first : Byte) (s : State) : Nat := min (zext8 first) s.pc.toNat

/-- `len` data bytes from an address on, after their length byte: the response `[len] ++ data` (42_ring_buffer.md
R166). -/
def readBytes (k : Params) (address len : Nat) (s : State) : Run (List Byte) :=
  (memRead k address len s).andThen fun data s' => .done (lengthByte len :: data) s'

/-- The response for the frame in slot r_idx (42_ring_buffer.md R166): with VL = 1 the length byte is stripped, the
address byte never is (43_frame_codec.md R187). -/
def readSlot (k : Params) (s : State) : Run (List Byte) :=
  if s.vl then
    (arenaRead k (slotBase s.rIdx s) s).andThen fun first s' =>
      readBytes k (slotBase s.rIdx s + 1) (readLength first s) s'
  else readBytes k (slotBase s.rIdx s) s.pc.toNat s

/-- READ's response and effect: empty exactly when r_idx = w_idx (42_ring_buffer.md R166). -/
def readFrame (k : Params) (s : State) : Run (List Byte) :=
  if s.rIdx = s.wIdx then .done [0x00#8] s
  else (readSlot k s).andThen fun response s' => .done response (s'.setReadIndex (nextIndex s.n s.rIdx))

/-- READ over the parameters k (42_ring_buffer.md R166). -/
def execReadWith (k : Params) (s : State) : Host.Outcome State Fault Refusal := finish (readFrame k s)

/-- READ (42_ring_buffer.md R166). -/
def execRead (s : State) : Host.Outcome State Fault Refusal := execReadWith Config.params s

end Sys2Proof.Machine
end

