-- ==== Sys2Proof/Machine/Transceiver.lean ====
section
/-! DEFINITION. The Transceiver State Machine: RECEIVE, the SEND family, POLL and CAN_SEND (41_state_machine.md). -/

namespace Sys2Proof.Machine

/-- The automatic mode of reception (41_state_machine.md R131, R149). -/
def automodeRx : AutoMode where
  enter := .payloadReadyRising
  exit := .fifoNotEmptyFalling
  intermediate := .standby

/-- The automatic mode of transmission (41_state_machine.md R134, R149). -/
def automodeTx : AutoMode where
  enter := .fifoLevelRising
  exit := .packetSentRising
  intermediate := .transmitter

/-- The boost writes of a transition, register 1 before register 2, none if BOOST is 0 (41_state_machine.md R131,
R134). -/
def boostTransactions (boost : Bool) (b : Switch) : List Transaction :=
  if boost then [.boost1 b, .boost2 b] else []

/-- The transactions of `ARM_RX`, in order (41_state_machine.md R131). -/
def armRxTransactions (boost : Bool) : List Transaction :=
  [.autoMode automodeRx] ++ boostTransactions boost .off ++ [.opMode .receiver]

/-- `ARM_RX` (41_state_machine.md R131). -/
def armRx (s : State) : Run Unit :=
  (issueAll (armRxTransactions s.boost) s).andThen fun _ s' => .done () (s'.setRadio .receiving)

/-- The transactions of `ARM_TX` before its state write, in order (41_state_machine.md R134). -/
def armTxTransactions (boost : Bool) : List Transaction :=
  [.opMode .standby, .autoMode automodeTx] ++ boostTransactions boost .on

/-- `ARM_TX(frame)`: state <- Sending comes before the FIFO write (41_state_machine.md R134). -/
def armTx (frame : List Byte) (s : State) : Run Unit :=
  (issueAll (armTxTransactions s.boost) s).andThen fun _ s' => issue (.fifoWrite frame) (s'.setRadio .sending)

/-- RECEIVE (41_state_machine.md R132). -/
def execReceive (s : State) : Host.Outcome State Fault Refusal :=
  if s.phase ≠ .ready then raiseFault .notReady (encodeWord .receive) s
  else finish ((armRx s).andThen fun _ s' => .done [] s')

/-- `SEND_COMMON` (41_state_machine.md R135): `lengthOk` is the variant's length rule, `word` the command word. The
variant's bit va is 1 exactly when there is an address. -/
def sendCommon (vv : Bool) (address : Option Byte) (payload : List Byte) (lengthOk : Bool) (word : CommandWord)
    (s : State) : Host.Outcome State Fault Refusal :=
  if s.phase ≠ .ready then raiseFault .notReady word s
  else if (vv, address.isSome) ≠ (s.vl, s.ad) then raiseFault .layoutMismatch word s
  else if lengthOk = false then raiseFault .lengthMismatch word s
  else finish ((armTx (encodeFrame vv address payload) s).andThen fun _ s' => .done [] s')

/-- The length rule of the fixed-length sends: `n == P_user` (41_state_machine.md R136, R137). -/
def fixedLengthRule (payload : List Byte) (s : State) : Bool := decide (payloadLength payload = s.pUser.toNat)

/-- The length rule of SEND_ADDR_VAR: `n ≤ 254` (41_state_machine.md R139). -/
def addressedLengthRule (payload : List Byte) : Bool := decide (payloadLength payload ≤ 254)

/-- SEND (41_state_machine.md R136). -/
def execSend (payload : List Byte) (s : State) : Host.Outcome State Fault Refusal :=
  sendCommon false none payload (fixedLengthRule payload s) (encodeWord (.send payload)) s

/-- SEND_ADDR (41_state_machine.md R137). -/
def execSendAddr (address : Byte) (payload : List Byte) (s : State) : Host.Outcome State Fault Refusal :=
  sendCommon false (some address) payload (fixedLengthRule payload s) (encodeWord (.sendAddr address payload)) s

/-- SEND_VAR: no length rule (41_state_machine.md R138). -/
def execSendVar (payload : List Byte) (s : State) : Host.Outcome State Fault Refusal :=
  sendCommon true none payload true (encodeWord (.sendVar payload)) s

/-- SEND_ADDR_VAR (41_state_machine.md R139). -/
def execSendAddrVar (address : Byte) (payload : List Byte) (s : State) : Host.Outcome State Fault Refusal :=
  sendCommon true (some address) payload (addressedLengthRule payload) (encodeWord (.sendAddrVar address payload)) s

/-- POLL's branch in Receiving with automode-active: drain into slot w_idx, and push (41_state_machine.md R141). -/
def drainAndPush (k : Params) (s : State) : Run (List Byte) :=
  (drain k s.wIdx s).andThen fun _ s' => .done [] (push s')

/-- POLL's branch in Sending once automode-active has cleared: re-arm reception (41_state_machine.md R143). -/
def rearm (s : State) : Run (List Byte) := (armRx s).andThen fun _ s' => .done [] s'

/-- POLL's one decision, on one flag read (41_state_machine.md R140, R144). -/
def pollDecision (k : Params) (flags1 : Byte) (s : State) : Run (List Byte) :=
  match s.radio, automodeActive k flags1 with
  | .receiving, true => drainAndPush k s
  | .receiving, false => .done [] s
  | .sending, false => rearm s
  | .sending, true => .done [] s

/-- POLL over the parameters k (41_state_machine.md R140). -/
def execPollWith (k : Params) (s : State) : Host.Outcome State Fault Refusal :=
  if s.phase ≠ .ready then raiseFault .notReady (encodeWord .poll) s
  else finish ((readFlags1 s).andThen fun flags1 s' => pollDecision k flags1 s')

/-- POLL (41_state_machine.md R140). -/
def execPoll (s : State) : Host.Outcome State Fault Refusal := execPollWith Config.params s

/-- CAN_SEND (41_state_machine.md R147). -/
def execCanSend (s : State) : Host.Outcome State Fault Refusal :=
  finish (.done [statusByte (canSendFlag s)] s)

end Sys2Proof.Machine
end

