-- ==== Sys2Proof/Machine/Dispatch.lean ====
section
/-! DEFINITION. One arm per command: its meaning (30_encoding.md R87). -/

namespace Sys2Proof.Machine

def exec (i : Instr) (s : State) : Host.Outcome State Fault Refusal :=
  match i with
  | .cfgFrame vl ad => Sys2Proof.Machine.execCfgFrame vl ad s
  | .cfgAes e => Sys2Proof.Machine.execCfgAes e s
  | .cfgSlots nReq => Sys2Proof.Machine.execCfgSlots nReq s
  | .cfgPayload pReq => Sys2Proof.Machine.execCfgPayload pReq s
  | .setHighpower => Sys2Proof.Machine.execSetHighpower s
  | .setPower dbm b => Sys2Proof.Machine.execSetPower dbm b s
  | .receive => Sys2Proof.Machine.execReceive s
  | .poll => Sys2Proof.Machine.execPoll s
  | .available => Sys2Proof.Machine.execAvailable s
  | .read => Sys2Proof.Machine.execRead s
  | .canSend => Sys2Proof.Machine.execCanSend s
  | .send payload => Sys2Proof.Machine.execSend payload s
  | .sendAddr address payload => Sys2Proof.Machine.execSendAddr address payload s
  | .sendVar payload => Sys2Proof.Machine.execSendVar payload s
  | .sendAddrVar address payload => Sys2Proof.Machine.execSendAddrVar address payload s

end Sys2Proof.Machine
end

