-- ==== Sys2Proof/Machine/Step.lean ====
section
/-! DEFINITION. One step of the machine: one command, or a reset, or a wait (20_memory.md R60, 70_reset_and_hazards.md
R250, R252). -/

namespace Sys2Proof.Machine

/-- One step. A CORE that has nothing to take waits: before its first command (70_reset_and_hazards.md R252), after a
fault (60_exceptions.md R221) and in a stalled transaction (60_exceptions.md R227). -/
def step (s : State) : Host.Outcome State Fault Refusal :=
  match offer s with
  | .wait => .next s
  | .reset taken => .next taken.applyReset
  | .run i taken => exec i taken
  | .abandon i taken => abandon taken.responses (exec i taken)
  | .illegal word taken => raiseFault .illegalCommand word taken
  | .refuse r => .refused r

/-- The state in which the next step takes exactly the instruction of the table word w (log 5, log 17). -/
def State.withFetchWord (s : State) (nbits w : Nat) : State := presentFirst (tableBytes nbits w) s

end Sys2Proof.Machine
end

