-- ==== Sys2Proof/Safety.lean ====
section
/-! DEFINITION. What counts as a safe run: the boost predicate and the host duty it needs (70_reset_and_hazards.md R258
to R260), the invariants every rule preserves (10_state.md R40, 20_memory.md R52), and the premise that transactions
complete (70_reset_and_hazards.md R256 (P4)). -/

namespace Sys2Proof.Machine

/-! ## Boost (70_reset_and_hazards.md R258) -/

/-- One of the two boost registers was last written On. -/
def boostOn (g : Ghost) : Bool := decide (g.boost1 = .on) || decide (g.boost2 = .on)

/-- `BOOST_IN_RX := (g_boost1 == On or g_boost2 == On) and g_opmode == Receiver` (70_reset_and_hazards.md R258). -/
def boostInRx (g : Ghost) : Bool := boostOn g && decide (g.opMode = .receiver)

/-- The ghost state after each of the transactions has completed, in order (20_memory.md R54). -/
def Ghost.afterAll (g : Ghost) (ops : List Transaction) : Ghost := ops.foldl Ghost.after g

/-- BOOST_IN_RX holds neither before the transactions nor after any of them. -/
def boostSafeAlong (g : Ghost) (ops : List Transaction) : Prop :=
  ∀ j, j ≤ ops.length → boostInRx (g.afterAll (ops.take j)) = false

/-- The host duty of 70_reset_and_hazards.md R260, for the next step: no SET_POWER while `state = Sending`,
not even one that reset abandons. -/
def keepsPowerDuty (s : State) : Prop :=
  ∀ dbm b taken, offer s = .run (.setPower dbm b) taken ∨ offer s = .abandon (.setPower dbm b) taken →
    taken.radio = .receiving

/-- What keeps BOOST_IN_RX false: boost registers are on only while Sending with BOOST = 1. In the middle of a command
that has stalled the CORE is between the two, and only reset follows. -/
structure BoostInv (s : State) : Prop where
  notInRx : boostInRx s.ghost = false
  onlySending : s.blocked = none → boostOn s.ghost = true → s.radio = .sending ∧ s.boost = true

/-! ## The registers (10_state.md R40) -/

/-- The invariants of 10_state.md R40, with the two facts that make them inductive: a slot count has been chosen once
`phase` is SIZED (40_configuration.md R114), and P_user is at most 64 (40_configuration.md R116). -/
structure CoreInv (k : Params) (s : State) : Prop where
  idle : s.phase ≠ .ready → s.wIdx = 0#8 ∧ s.rIdx = 0#8
  sized : s.phase = .sized → 1 ≤ s.n.toNat
  slotCount : s.phase = .ready → 1 ≤ s.n.toNat ∧ s.n.toNat ≤ 255
  indices : s.phase = .ready → s.wIdx.toNat < s.n.toNat ∧ s.rIdx.toNat < s.n.toNat
  userCapacity : s.phase = .ready → s.pUser.toNat ≤ 64
  capacity : s.phase = .ready → s.pc.toNat = s.pUser.toNat + s.ad.toNat + s.vl.toNat
  slot : s.phase = .ready → s.c.toNat = s.pc.toNat + s.vl.toNat
  fits : s.phase = .ready → s.n.toNat * s.c.toNat ≤ k.arenaBytes
  standard : s.hp = .standard → s.boost = false

/-! ## The ring buffer (42_ring_buffer.md R162, R164; 20_memory.md R52) -/

/-- `k = (w_idx - r_idx) mod N`, the number of frames READ returns before it reports empty (42_ring_buffer.md R164). -/
def pendingCount (s : State) : Nat := (s.wIdx.toNat + s.n.toNat - s.rIdx.toNat) % s.n.toNat

/-- The arena holds a byte at every address of `[address, address + len)`. -/
def written (m : Memory) (address len : Nat) : Prop := ∀ j, j < len → (Memory.read? m (address + j)).isSome = true

/-- Slot i holds a frame a drain has stored: PC bytes, or a length byte of at most PC and as many bytes after it
(43_frame_codec.md R185, R186). -/
def slotFilled (s : State) (i : Nat) : Prop :=
  if s.vl then
    ∃ len : Byte, Memory.read? s.arena (i * s.c.toNat) = some len ∧ len.toNat ≤ s.pc.toNat ∧
      written s.arena (i * s.c.toNat + 1) len.toNat
  else written s.arena (i * s.c.toNat) s.pc.toNat

/-- Every pending slot `r_idx .. r_idx + k - 1` (mod N) has been filled by a drain (20_memory.md R52). -/
def SlotsFilled (s : State) : Prop := ∀ j, j < pendingCount s → slotFilled s ((s.rIdx.toNat + j) % s.n.toNat)

/-! ## Transactions (70_reset_and_hazards.md R256 (P4)) -/

/-- The next m transactions complete: no stall comes before them (20_memory.md R57). -/
def transactionsComplete (m : Nat) (s : State) : Prop := ∀ k, k ∈ s.stalls.head? → m ≤ k

end Sys2Proof.Machine
end

