-- ==== Sys2Proof/Certificates/Slice0/Obligations.lean ====
section
/-! DEFINITION. The statements for the provers: the spec's numbered rules about the commands and the machine. Where a
statement says that a command completes, its only premise about the chip is that the transactions it names complete
(`transactionsComplete`, 70_reset_and_hazards.md R256 (P4)). -/

open Sys2Proof Sys2Proof.Machine

namespace Sys2Proof.Claims

/-- The opcode map as 30_encoding.md R87 prints it: (match, mask). -/
def printedRows : List (CommandWord × CommandWord) :=
  [ (0x1000#16, 0xFCFF#16), (0x2000#16, 0xFEFF#16), (0x3000#16, 0xFF00#16), (0x4000#16, 0xFF00#16),
    (0x5000#16, 0xFFFF#16), (0x6000#16, 0xFE00#16), (0x7000#16, 0xFFFF#16), (0x8000#16, 0xFFFF#16),
    (0x9000#16, 0xFFFF#16), (0xA000#16, 0xFFFF#16), (0xB000#16, 0xFFFF#16), (0xC000#16, 0xFF00#16),
    (0xC100#16, 0xFF00#16), (0xC200#16, 0xFF00#16), (0xC300#16, 0xFF00#16) ]

/-- The word matches no printed row (30_encoding.md R90). -/
def matchesNoRow (w : CommandWord) : Prop := ∀ r ∈ printedRows, w &&& r.2 ≠ r.1

/-- The number of data bytes 30_encoding.md R82 gives for a word, in bits of the word. -/
def dataBytesOf (w : CommandWord) : Nat :=
  if w.extractLsb' 12 4 = 0xC#4 then (w.extractLsb' 0 8).toNat + (w.extractLsb' 8 1).toNat else 0

/-- A command on the link: the word's high byte, its low byte, the data (30_encoding.md R80, R93). -/
def onLink (w : CommandWord) (data : List Byte) : List Byte := w.extractLsb' 8 8 :: w.extractLsb' 0 8 :: data

/-- The CORE accepts commands: no fault and no stalled transaction (60_exceptions.md R221, 20_memory.md R57). -/
def acceptsCommands (s : State) : Prop := s.fault = none ∧ s.blocked = none

/-- The host presents this event next, and `rest` and `cursor` are what it presents after it: the event is the first
listed one, or, where none is listed, the next one of a host without end (10_state.md R21). -/
def hostPresents (s : State) (event : HostEvent) (rest : List HostEvent) (cursor : Option Nat) : Prop :=
  (s.port = event :: rest ∧ s.hostCursor = cursor) ∨
  (s.port = [] ∧ rest = [] ∧ ∃ k, s.hostCursor = some k ∧ event = Config.hostEvent k ∧ cursor = some (k + 1))

/-- The host applies reset next, with or without a command in progress (70_reset_and_hazards.md R250). -/
def resetComes (s : State) : Prop :=
  ∃ event rest cursor, hostPresents s event rest cursor ∧ ∀ bytes, event ≠ .command bytes

/-- The fault register after `raise Fault(code)` for an instruction (60_exceptions.md R221). -/
def faulted (code : FaultCode) (i : Instr) (s : State) : State := { s with fault := some ⟨code, encodeWord i⟩ }

/-- The fault of a SEND command, the first failing check in written order (60_exceptions.md R220, R223). -/
def sendFault (vv va : Bool) (lengthOk : Bool) (s : State) : Option FaultCode :=
  if s.phase ≠ .ready then some .notReady
  else if vv ≠ s.vl ∨ va ≠ s.ad then some .layoutMismatch
  else if lengthOk then none else some .lengthMismatch

/-- The fault table of 60_exceptions.md R220 with the priority of R223, for the commands of the opcode map. -/
def tableFault (i : Instr) (s : State) : Option FaultCode :=
  match i with
  | .cfgFrame _ _ => if s.phase ≠ .opened then some .configOrder else none
  | .cfgAes _ => if s.phase ≠ .opened then some .configOrder else none
  | .cfgSlots nReq =>
    if s.phase = .ready then some .configOrder else if nReq.toNat = 0 then some .badOperand else none
  | .cfgPayload pReq =>
    if s.phase ≠ .sized then some .configOrder
    else if pReq.toNat > 64 then some .badOperand
    else if s.n.toNat * (pReq.toNat + s.ad.toNat + s.vl.toNat + s.vl.toNat) > Config.params.arenaBytes then
      some .arenaOverflow
    else none
  | .setHighpower => none
  | .setPower _ _ => none
  | .receive => if s.phase ≠ .ready then some .notReady else none
  | .poll => if s.phase ≠ .ready then some .notReady else none
  | .available => none
  | .read => none
  | .canSend => none
  | .send payload => sendFault false false (payload.length = s.pUser.toNat) s
  | .sendAddr _ payload => sendFault false true (payload.length = s.pUser.toNat) s
  | .sendVar _ => sendFault true false true s
  | .sendAddrVar _ payload => sendFault true true (payload.length ≤ 254) s

/-- The end of a command that completes: the register writes `upd`, the transactions in order, the response. -/
def completesWith (i : Instr) (s : State) (ops : List Transaction) (upd : State → State) (response : List Byte) :
    Prop :=
  transactionsComplete ops.length s →
    exec i s = .next (upd { s.completedAll ops with responses := s.responses ++ [response] })

/-- The reception automatic mode: T_AUTOMODE(PAYLOAD_READY_RISING, FIFO_NOT_EMPTY_FALLING, Standby). -/
def rxMode : Transaction := .autoMode ⟨.payloadReadyRising, .fifoNotEmptyFalling, .standby⟩

/-- The transmission automatic mode: T_AUTOMODE(FIFO_LEVEL_RISING, PACKET_SENT_RISING, Transmitter). -/
def txMode : Transaction := .autoMode ⟨.fifoLevelRising, .packetSentRising, .transmitter⟩

/-- The transactions of ARM_RX (41_state_machine.md R131). -/
def armRxOps (boost : Bool) : List Transaction :=
  if boost then [rxMode, .boost1 .off, .boost2 .off, .opMode .receiver] else [rxMode, .opMode .receiver]

/-- The transactions of ARM_TX(frame) (41_state_machine.md R134). -/
def armTxOps (boost : Bool) (frame : List Byte) : List Transaction :=
  if boost then [.opMode .standby, txMode, .boost1 .on, .boost2 .on, .fifoWrite frame]
  else [.opMode .standby, txMode, .fifoWrite frame]

/-- A SEND command with this variant, length rule and frame does what 41_state_machine.md R135 says. -/
def sendsFrame (i : Instr) (vv va : Bool) (lengthOk : Prop) (frame : List Byte) (s : State) : Prop :=
  (s.phase ≠ .ready → exec i s = .next (faulted .notReady i s)) ∧
  (s.phase = .ready → (vv ≠ s.vl ∨ va ≠ s.ad) → exec i s = .next (faulted .layoutMismatch i s)) ∧
  (s.phase = .ready → vv = s.vl → va = s.ad → ¬ lengthOk → exec i s = .next (faulted .lengthMismatch i s)) ∧
  (s.phase = .ready → vv = s.vl → va = s.ad → lengthOk →
    completesWith i s (armTxOps s.boost frame) (fun t => { t with radio := .sending }) [])

/-- The stall of a command in the transaction number j of `ops` (from 0): the ones before it have completed, the registers
are written as `upd j` says, no response is placed, and of the inputs the stalls alone are used up. -/
def stallsWith (i : Instr) (s : State) (ops : List Transaction) (upd : Nat → State → State) : Prop :=
  ∀ (j : Nat) (hj : j < ops.length) (later : List Nat), s.stalls = j :: later →
    ∃ (left : List Nat) (cursor : Option Nat), exec i s = .next
      { upd j (s.completedAll (ops.take j)) with blocked := some ops[j], stalls := left, stallCursor := cursor }

/-- A SEND command that stalls has written `state` exactly if it stalls in its FIFO write, its last transaction
(41_state_machine.md R134). -/
def sendStallsWith (i : Instr) (vv va : Bool) (lengthOk : Prop) (frame : List Byte) (s : State) : Prop :=
  s.phase = .ready → vv = s.vl → va = s.ad → lengthOk →
    stallsWith i s (armTxOps s.boost frame)
      (fun j t => if j + 1 = (armTxOps s.boost frame).length then { t with radio := .sending } else t)

/-- The flags1 bit AM_BIT of the byte the chip answers next (41_state_machine.md R140). -/
def nextAutomode (s : State) : Bool := s.nextDraw.getLsbD Config.params.amBit.val

/-- What a receiving host reads of a frame: the payload, with the address in front where there is one
(43_frame_codec.md R187, R188). -/
def deliveredData : Instr → Option (List Byte)
  | .send payload => some payload
  | .sendAddr address payload => some (address :: payload)
  | .sendVar payload => some payload
  | .sendAddrVar address payload => some (address :: payload)
  | .cfgFrame _ _ => none
  | .cfgAes _ => none
  | .cfgSlots _ => none
  | .cfgPayload _ => none
  | .setHighpower => none
  | .setPower _ _ => none
  | .receive => none
  | .poll => none
  | .available => none
  | .read => none
  | .canSend => none

/-- An outcome with its next state changed. -/
def mapNext (f : State → State) : Host.Outcome State Fault Refusal → Host.Outcome State Fault Refusal
  | .next s => .next (f s)
  | .fault r => .fault r
  | .refused r => .refused r

/-- The state with its ghost fields forgotten. -/
def forgetGhost (s : State) : State := { s with ghost := Ghost.reset }

end Sys2Proof.Claims

open Sys2Proof.Claims

/-! ## Encoding (30_encoding.md) -/

/-- R82, R87, R94: decoding the bytes of a well-formed instruction gives it back, every operand at every value. -/
def Obligations.DecodeOfEncodeIsTheInstruction : Prop :=
  ∀ i : Instr, i.wellFormed = true → decode (encode i) = .ok i

/-- R82, R83: what decodes is well formed and has exactly these bytes, so no two byte strings are one instruction. -/
def Obligations.DecodedBytesAreTheEncoding : Prop :=
  ∀ (bytes : List Byte) (i : Instr), decode bytes = .ok i → i.wellFormed = true ∧ encode i = bytes

/-- R87: the decoder's rows are the printed rows, and no word matches two of them. -/
def Obligations.NoWordMatchesTwoOpcodeRows : Prop :=
  opcodeMap.map (fun r => (r.pattern, r.mask)) = printedRows ∧
  ∀ (w : CommandWord) (j k : Nat) (hj : j < printedRows.length) (hk : k < printedRows.length),
    w &&& printedRows[j].2 = printedRows[j].1 → w &&& printedRows[k].2 = printedRows[k].1 → j = k

/-- 95_test_vectors.md L2-1 and R94: words written out from the encoding tables. -/
def Obligations.PrintedWordsDecodeToTheirCommands : Prop :=
  decode [0x13#8, 0x00#8] = .ok (.cfgFrame true true) ∧
  decode [0x21#8, 0x00#8] = .ok (.cfgAes true) ∧
  decode [0x30#8, 0xFF#8] = .ok (.cfgSlots 255#8) ∧
  decode [0x40#8, 0x40#8] = .ok (.cfgPayload 64#8) ∧
  decode [0x61#8, 0x80#8] = .ok (.setPower 0x80#8 true) ∧
  decode [0x80#8, 0x00#8] = .ok .poll ∧
  decode [0xA0#8, 0x00#8] = .ok .read ∧
  decode [0xC1#8, 0x04#8, 0x2A#8, 1#8, 2#8, 3#8, 4#8] = .ok (.sendAddr 0x2A#8 [1#8, 2#8, 3#8, 4#8]) ∧
  decode [0xC3#8, 0x02#8, 0x07#8, 0xAA#8, 0xBB#8] = .ok (.sendAddrVar 0x07#8 [0xAA#8, 0xBB#8]) ∧
  decode [0x14#8, 0x00#8] = .error (.illegal 0x1400#16) ∧
  decode [0xC4#8, 0x00#8] = .error (.illegal 0xC400#16) ∧
  decode [0xD1#8, 0x23#8] = .error (.outOfScope 0xD123#16)

/-! ## The command port (20_memory.md R60, 60_exceptions.md R221, R226, R227, 70_reset_and_hazards.md R250) -/

/-- A step runs the decoded instruction: when the command the host presents first decodes to i and the CORE accepts
commands, the step is exec of i on the state with that command taken (20_memory.md R60). How the host's program is held
is the model's choice (log 5). -/
def Obligations.StepRunsTheDecodedCommand : Prop :=
  ∀ (s : State) (bytes : List Byte) (rest : List HostEvent) (cursor : Option Nat) (i : Instr), acceptsCommands s →
    hostPresents s (.command bytes) rest cursor → decode bytes = .ok i →
    step s = exec i { s with port := rest, hostCursor := cursor }

/-- R90: an illegal word faults ILLEGAL_COMMAND and changes no other register, issues no transaction and places no
response. The data length of a reserved word of OPC 0xC is the model's reading (log 11), and an illegal word with a data
phase of another length is left out, as the model refuses it (log 12). -/
def Obligations.IllegalWordsFault : Prop :=
  ∀ (s : State) (w : CommandWord) (data : List Byte) (rest : List HostEvent) (cursor : Option Nat),
    acceptsCommands s → hostPresents s (.command (onLink w data)) rest cursor → data.length = dataBytesOf w →
    matchesNoRow w → w.extractLsb' 12 4 ≠ 0xD#4 → w.extractLsb' 12 4 ≠ 0xE#4 →
    step s = .next { s with port := rest, hostCursor := cursor, fault := some ⟨.illegalCommand, w⟩ }

/-- R226: the model refuses a word of OPC 0xD or 0xE, and a command whose data phase has the wrong length (R83). That a
wrong length is refused before the word is looked at, so that an illegal word, or one of OPC 0xD or 0xE, with it is ill
formed (log 12), and the data length of a reserved word of OPC 0xC (log 11), are the model's readings. -/
def Obligations.OutOfScopeAndIllFormedCommandsAreRefused : Prop :=
  ∀ (s : State) (w : CommandWord) (data : List Byte) (rest : List HostEvent) (cursor : Option Nat),
    acceptsCommands s → hostPresents s (.command (onLink w data)) rest cursor →
    (data = [] → (w.extractLsb' 12 4 = 0xD#4 ∨ w.extractLsb' 12 4 = 0xE#4) → step s = .refused (.outOfScope w)) ∧
    (data.length ≠ dataBytesOf w → step s = .refused .illFormed)

/-- R221, R227 (1), R252: a faulted CORE and a blocked CORE accept no command and change nothing, and so does a CORE with
no command presented, until the host applies reset. That an idle CORE takes a step that answers the state itself
(log 18), and that a command presented to a faulted or blocked CORE stays on the port, unread (log 15), are the model's
choices. -/
def Obligations.FaultedOrBlockedCoreWaitsForReset : Prop :=
  ∀ s : State, (s.fault ≠ none ∨ s.blocked ≠ none ∨ (s.port = [] ∧ s.hostCursor = none)) → ¬ resetComes s →
    step s = .next s

/-- R250, R251: reset gives every register and ghost field its reset value at any time, also in a fault and in a
stalled transaction, and issues no transaction: the trace and the responses stay. That the arena lists nothing after it
(log 8), and that what the ports have shown and the inputs stay (log 6), are the model's choices. -/
def Obligations.ResetLeavesEveryState : Prop :=
  ∀ (s : State) (rest : List HostEvent) (cursor : Option Nat), hostPresents s .reset rest cursor →
    step s = .next { State.reset with
      responses := s.responses, trace := s.trace, port := rest, hostCursor := cursor, chipBytes := s.chipBytes,
      drawn := s.drawn, stalls := s.stalls, stallCursor := s.stallCursor }

/-- R252: the register values after reset, and the ghost fields Unknown. The arena is left out, since what it lists at
reset is the model's choice (log 8). -/
def Obligations.ResetValues : Prop :=
  State.reset.radio = .receiving ∧ State.reset.vl = false ∧ State.reset.ad = false ∧ State.reset.aes = false ∧
  State.reset.pUser = 0#7 ∧ State.reset.pc = 0#7 ∧ State.reset.c = 0#7 ∧ State.reset.n = 0#8 ∧
  State.reset.wIdx = 0#8 ∧ State.reset.rIdx = 0#8 ∧ State.reset.phase = .opened ∧ State.reset.hp = .standard ∧
  State.reset.boost = false ∧ State.reset.fault = none ∧ State.reset.ghost.opMode = .unknown ∧
  State.reset.ghost.autoMode = none ∧ State.reset.ghost.boost1 = .unknown ∧ State.reset.ghost.boost2 = .unknown ∧
  State.reset.ghost.ocp = .unknown

/-! ## Faults (60_exceptions.md) -/

/-- R220, R223: a command faults exactly when the fault table says so, with the code of its first failing check, and
then the FAULT register alone changes (R221, R222). -/
def Obligations.CommandsFaultAsTheTableSays : Prop :=
  ∀ (i : Instr) (s : State),
    (∀ code, tableFault i s = some code → exec i s = .next (faulted code i s)) ∧
    (tableFault i s = none → ∀ t, exec i s = .next t → t.fault = s.fault)

/-- R222: faults are precise. Every other register, the arena, the trace and the responses are as before, for every
command and for a step that faults on an illegal word; the step only takes its command from the port. -/
def Obligations.FaultsArePrecise : Prop :=
  (∀ (i : Instr) (s t : State), s.fault = none → exec i s = .next t → t.fault ≠ none →
    ∃ code, t = { s with fault := some ⟨code, encodeWord i⟩ }) ∧
  ∀ s t : State, s.fault = none → step s = .next t → t.fault ≠ none →
    ∃ (bytes : List Byte) (rest : List HostEvent) (cursor : Option Nat) (code : FaultCode) (word : CommandWord),
      hostPresents s (.command bytes) rest cursor ∧ t = { s with port := rest, hostCursor := cursor, fault := some ⟨code, word⟩ }

/-- R225: every fault condition depends only on the command and on CORE registers, never on a draw (of a CORE that has
not faulted: another one accepts no command, R221). -/
def Obligations.FaultsDoNotDependOnTheChip : Prop :=
  ∀ (i : Instr) (s : State) (chip : List Byte) (drawn : Nat) (stalls : List Nat) (cursor : Option Nat)
    (code : FaultCode), s.fault = none →
    (exec i s = .next (faulted code i s) ↔
      exec i { s with chipBytes := chip, drawn := drawn, stalls := stalls, stallCursor := cursor } =
        .next (faulted code i { s with chipBytes := chip, drawn := drawn, stalls := stalls, stallCursor := cursor }))

/-- R57: a command whose transaction stalls places no response and raises no fault (R222: every check comes before the
first transaction), and has not touched the arena (43_frame_codec.md R184: both FIFO reads come before the first write).
Which registers it has written, two statements at the end of this file say. What was in the trace before it stays its
beginning; that the stalled transaction leaves no entry is the model's choice
(log 3) and not stated. -/
def Obligations.StalledCommandsPlaceNoResponse : Prop :=
  ∀ (i : Instr) (s t : State), s.blocked = none → exec i s = .next t → t.blocked ≠ none →
    t.responses = s.responses ∧ t.fault = s.fault ∧ t.arena = s.arena ∧ s.trace <+: t.trace

/-- R84: a command that completes places exactly one response, of the form its opcode asks for, with at most 66 data
bytes for READ in the states of R40; one that raises a fault or whose transaction stalls places none. -/
def Obligations.CompletedCommandsPlaceOneResponse : Prop :=
  ∀ (i : Instr) (s t : State), s.fault = none → s.blocked = none → exec i s = .next t →
    (t.fault ≠ none ∨ t.blocked ≠ none → t.responses = s.responses) ∧
    (t.fault = none → t.blocked = none → ∃ response, t.responses = s.responses ++ [response] ∧
      (i ≠ .available → i ≠ .canSend → i ≠ .read → response = []) ∧
      (i = .available → response = [if s.rIdx ≠ s.wIdx then 0x01#8 else 0x00#8]) ∧
      (i = .canSend → response = [if s.radio = .receiving then 0x01#8 else 0x00#8]) ∧
      (i = .read → ∃ data : List Byte, response = BitVec.ofNat 8 data.length :: data ∧
        data.length ≤ s.pc.toNat ∧ (CoreInv Config.params s → data.length ≤ 66)))

/-! ## Configuration (40_configuration.md) -/

/-- R110: CFG_FRAME. -/
def Obligations.CfgFrameSetsTheFrameMode : Prop :=
  ∀ (vl ad : Bool) (s : State),
    (s.phase ≠ .opened → exec (.cfgFrame vl ad) s = .next (faulted .configOrder (.cfgFrame vl ad) s)) ∧
    (s.phase = .opened →
      completesWith (.cfgFrame vl ad) s [.cfgFrame vl ad] (fun t => { t with vl := vl, ad := ad }) [])

/-- R112, R113: CFG_AES. -/
def Obligations.CfgAesSetsAesAlone : Prop :=
  ∀ (e : Bool) (s : State),
    (s.phase ≠ .opened → exec (.cfgAes e) s = .next (faulted .configOrder (.cfgAes e) s)) ∧
    (s.phase = .opened → completesWith (.cfgAes e) s [.cfgAes e] (fun t => { t with aes := e }) [])

/-- R114: CFG_SLOTS. -/
def Obligations.CfgSlotsSetsTheSlotCount : Prop :=
  ∀ (nReq : Byte) (s : State),
    (s.phase = .ready → exec (.cfgSlots nReq) s = .next (faulted .configOrder (.cfgSlots nReq) s)) ∧
    (s.phase ≠ .ready → nReq.toNat = 0 → exec (.cfgSlots nReq) s = .next (faulted .badOperand (.cfgSlots nReq) s)) ∧
    (s.phase ≠ .ready → nReq.toNat ≠ 0 →
      completesWith (.cfgSlots nReq) s [] (fun t => { t with n := nReq, phase := .sized }) [])

/-- R116: CFG_PAYLOAD, with PC = P_req + AD + VL and C = PC + VL. -/
def Obligations.CfgPayloadAllocatesTheSlots : Prop :=
  ∀ (pReq : Byte) (s : State) (pc c : Nat), pc = pReq.toNat + s.ad.toNat + s.vl.toNat → c = pc + s.vl.toNat →
    (s.phase ≠ .sized → exec (.cfgPayload pReq) s = .next (faulted .configOrder (.cfgPayload pReq) s)) ∧
    (s.phase = .sized → pReq.toNat > 64 →
      exec (.cfgPayload pReq) s = .next (faulted .badOperand (.cfgPayload pReq) s)) ∧
    (s.phase = .sized → pReq.toNat ≤ 64 → s.n.toNat * c > Config.params.arenaBytes →
      exec (.cfgPayload pReq) s = .next (faulted .arenaOverflow (.cfgPayload pReq) s)) ∧
    (s.phase = .sized → pReq.toNat ≤ 64 → s.n.toNat * c ≤ Config.params.arenaBytes →
      completesWith (.cfgPayload pReq) s [.cfgLen (BitVec.ofNat 7 pc)]
        (fun t => { t with
          pUser := BitVec.ofNat 7 pReq.toNat, pc := BitVec.ofNat 7 pc, c := BitVec.ofNat 7 c, wIdx := 0#8, rIdx := 0#8,
          phase := .ready }) []) ∧
    (pReq.toNat ≤ 64 → (BitVec.ofNat 7 pReq.toNat).toNat = pReq.toNat ∧ (BitVec.ofNat 7 pc).toNat = pc ∧
      (BitVec.ofNat 7 c).toNat = c)

/-- R116, R223: for every capacity of the arena CFG_PAYLOAD raises ARENA_OVERFLOW exactly when the slots do not fit, as
the last of its checks; the machine runs it with its own parameters, which are opaque, the model's choice (log 10). -/
def Obligations.ArenaOverflowForEveryCapacity : Prop :=
  ∀ (k : Params) (pReq : Byte) (s : State) (c : Nat), s.phase = .sized → pReq.toNat ≤ 64 →
    c = pReq.toNat + s.ad.toNat + s.vl.toNat + s.vl.toNat →
    (execCfgPayloadWith k pReq { s with fault := none } =
        .next (faulted .arenaOverflow (.cfgPayload pReq) { s with fault := none }) ↔ s.n.toNat * c > k.arenaBytes) ∧
    exec (.cfgPayload pReq) s = execCfgPayloadWith Config.params pReq s

/-- R118: the configuration commands touch neither `state`, HP, BOOST nor the arena, and issue no transaction but
their own. -/
def Obligations.ConfigurationLeavesTheOtherEntities : Prop :=
  ∀ (i : Instr) (s t : State),
    ((∃ v a, i = .cfgFrame v a) ∨ (∃ e, i = .cfgAes e) ∨ (∃ m, i = .cfgSlots m) ∨ ∃ p, i = .cfgPayload p) →
    exec i s = .next t →
    t.radio = s.radio ∧ t.hp = s.hp ∧ t.boost = s.boost ∧ t.arena = s.arena ∧ t.ghost = s.ghost ∧
      (t.trace = s.trace ∨ (∃ v a, i = .cfgFrame v a ∧ t.trace = s.trace ++ [.cfgFrame v a]) ∨
        (∃ e, i = .cfgAes e ∧ t.trace = s.trace ++ [.cfgAes e]) ∨
        ∃ p pc, i = .cfgPayload p ∧ t.trace = s.trace ++ [.cfgLen pc])

/-! ## Power (44_power.md) -/

/-- R200: SET_HIGHPOWER sets the class, in every state, and issues no transaction. -/
def Obligations.SetHighpowerSetsTheClass : Prop :=
  ∀ s : State, completesWith .setHighpower s [] (fun t => { t with hp := .highPower }) []

/-- R202, R203: SET_POWER. The Standard class ignores b, clears BOOST and writes no OCP (R207); the HighPower class
clamps to its own range, chooses stages and value, writes BOOST, and turns the OCP off first exactly with boost. -/
def Obligations.SetPowerMapsTheLevel : Prop :=
  ∀ (dbm : Byte) (b : Bool) (s : State),
    (s.hp = .standard →
      completesWith (.setPower dbm b) s [.paLevel .s0 (BitVec.ofInt 5 (min (max dbm.toInt (-18)) 13 + 18))]
        (fun t => { t with boost := false }) []) ∧
    ∀ q : Int, s.hp = .highPower → q = min (max dbm.toInt (-2)) (if b then 20 else 17) →
      completesWith (.setPower dbm b) s
        ((if b then [.ocpOff] else []) ++
          [if q ≤ 13 then .paLevel .s1 (BitVec.ofInt 5 (q + 18)) else .paLevel .s1s2 (BitVec.ofInt 5 (q + 11))])
        (fun t => { t with boost := b }) []

/-- R204: the ranges of stage and value for each class, from every level and flag: whatever a SET_POWER adds to the
trace that is a PA level lies in them. -/
def Obligations.PowerLevelsStayInTheirRanges : Prop :=
  ∀ (dbm : Byte) (b : Bool) (s t : State) (ops : List Transaction) (st : Stages) (v : BitVec 5),
    exec (.setPower dbm b) s = .next t → t.trace = s.trace ++ ops → .paLevel st v ∈ ops →
    (s.hp = .standard → st = .s0) ∧
    (s.hp = .highPower → (st = .s1 ∧ 16 ≤ v.toNat ∧ v.toNat ≤ 31) ∨
      (st = .s1s2 ∧ 25 ≤ v.toNat ∧ v.toNat ≤ (if b then 31 else 28)))

/-- R208: nothing re-enables the OCP: once a command has turned it off no command changes that; only SET_POWER with
boost in the HighPower class issues an OCP transaction, and only it changes what the OCP was last set to. -/
def Obligations.OcpIsNeverReEnabled : Prop :=
  ∀ (i : Instr) (s t : State), exec i s = .next t →
    (s.ghost.ocp = .off → t.ghost.ocp = .off) ∧
    (t.ghost.ocp ≠ s.ghost.ocp → s.hp = .highPower ∧ ∃ dbm, i = .setPower dbm true) ∧
    ∀ ops, t.trace = s.trace ++ ops → .ocpOff ∈ ops → s.hp = .highPower ∧ ∃ dbm, i = .setPower dbm true

/-! ## The transceiver state machine (41_state_machine.md) -/

/-- R131, R132: RECEIVE. -/
def Obligations.ReceiveArmsReception : Prop :=
  ∀ s : State,
    (s.phase ≠ .ready → exec .receive s = .next (faulted .notReady .receive s)) ∧
    (s.phase = .ready → completesWith .receive s (armRxOps s.boost) (fun t => { t with radio := .receiving }) [])

/-- R134, R135, R136, R181: SEND. -/
def Obligations.SendWritesThePayload : Prop :=
  ∀ (payload : List Byte) (s : State),
    sendsFrame (.send payload) false false (payload.length = s.pUser.toNat) payload s

/-- R134, R135, R137, R181: SEND_ADDR. -/
def Obligations.SendAddrWritesAddressAndPayload : Prop :=
  ∀ (address : Byte) (payload : List Byte) (s : State),
    sendsFrame (.sendAddr address payload) false true (payload.length = s.pUser.toNat) (address :: payload) s

/-- R134, R135, R138, R182: SEND_VAR, with no length rule. -/
def Obligations.SendVarWritesLengthAndPayload : Prop :=
  ∀ (payload : List Byte) (s : State),
    sendsFrame (.sendVar payload) true false True (BitVec.ofNat 8 payload.length :: payload) s

/-- R134, R135, R139, R183: SEND_ADDR_VAR, with L counting the address byte. -/
def Obligations.SendAddrVarWritesLengthAddressAndPayload : Prop :=
  ∀ (address : Byte) (payload : List Byte) (s : State),
    sendsFrame (.sendAddrVar address payload) true true (payload.length ≤ 254)
      (BitVec.ofNat 8 (payload.length + 1) :: address :: payload) s

/-- R140: POLL before the slots are allocated faults NOT_READY, whatever the chip would answer. -/
def Obligations.PollBeforeReadyFaults : Prop :=
  ∀ s : State, s.phase ≠ .ready → exec .poll s = .next (faulted .notReady .poll s)

/-- R142: POLL in Receiving with am = 0, or in Sending with am = 1, has no effect but its one flag read. -/
def Obligations.PollWithNothingToDoReadsOneFlag : Prop :=
  ∀ s : State, s.phase = .ready →
    (s.radio = .receiving ∧ nextAutomode s = false ∨ s.radio = .sending ∧ nextAutomode s = true) →
    transactionsComplete 1 s →
    exec .poll s = .next { (s.completed .flags1).dropDraw with responses := s.responses ++ [[]] }

/-- R143: POLL in Sending with am = 0 runs ARM_RX after the flag read. -/
def Obligations.PollRearmsReception : Prop :=
  ∀ s : State, s.phase = .ready → s.radio = .sending → nextAutomode s = false →
    transactionsComplete (1 + (armRxOps s.boost).length) s →
    exec .poll s = .next { (s.completed .flags1).dropDraw.completedAll (armRxOps s.boost) with
      radio := .receiving, responses := s.responses ++ [[]] }

/-- R140, R141, R186 and R161: POLL in Receiving with am = 1, fixed length: one FIFO read of PC bytes into slot w_idx,
and the push. Every arena byte outside the PC bytes from w_idx * C on reads as before. -/
def Obligations.PollDrainsAFixedFrame : Prop :=
  ∀ s : State, s.phase = .ready → s.radio = .receiving → nextAutomode s = true → s.vl = false →
    transactionsComplete 2 s → s.wIdx.toNat * s.c.toNat + s.pc.toNat ≤ Config.params.arenaBytes →
    ∃ m : Memory,
      exec .poll s = .next
        { ((s.completed .flags1).dropDraw.completed (.fifoRead s.pc.toNat)).dropDraws s.pc.toNat with
          arena := m, wIdx := BitVec.ofNat 8 ((s.wIdx.toNat + 1) % s.n.toNat), responses := s.responses ++ [[]] } ∧
      (∀ j (hj : j < (s.dropDraw.draws s.pc.toNat).length),
        Memory.read? m (s.wIdx.toNat * s.c.toNat + j) = some (s.dropDraw.draws s.pc.toNat)[j]) ∧
      (s.dropDraw.draws s.pc.toNat).length = s.pc.toNat ∧
      ∀ a, (a < s.wIdx.toNat * s.c.toNat ∨ s.wIdx.toNat * s.c.toNat + s.pc.toNat ≤ a) →
        Memory.read? m a = Memory.read? s.arena a

/-- R140, R141, R184, R185 and R161: POLL in Receiving with am = 1, variable length: the length byte clamped to C - 1,
that many bytes, both into slot w_idx, and the push. Every arena byte outside the 1 + L bytes from w_idx * C on reads
as before. -/
def Obligations.PollDrainsAVariableFrame : Prop :=
  ∀ (s : State) (len : Nat) (payload : List Byte), s.phase = .ready → s.radio = .receiving →
    nextAutomode s = true → s.vl = true → transactionsComplete 3 s →
    len = min s.dropDraw.nextDraw.toNat (s.c.toNat - 1) → payload = s.dropDraw.dropDraw.draws len →
    s.wIdx.toNat * s.c.toNat + 1 + len ≤ Config.params.arenaBytes →
    ∃ m : Memory,
      exec .poll s = .next
        { (((s.completed .flags1).dropDraw.completed (.fifoRead 1)).dropDraw.completed (.fifoRead len)).dropDraws
            len with
          arena := m, wIdx := BitVec.ofNat 8 ((s.wIdx.toNat + 1) % s.n.toNat), responses := s.responses ++ [[]] } ∧
      payload.length = len ∧
      Memory.read? m (s.wIdx.toNat * s.c.toNat) = some (BitVec.ofNat 8 len) ∧
      (∀ j (hj : j < payload.length), Memory.read? m (s.wIdx.toNat * s.c.toNat + 1 + j) = some payload[j]) ∧
      ∀ a, (a < s.wIdx.toNat * s.c.toNat ∨ s.wIdx.toNat * s.c.toNat + 1 + len ≤ a) →
        Memory.read? m a = Memory.read? s.arena a

/-- R147: CAN_SEND answers whether the state is Receiving, in every phase, and changes nothing. -/
def Obligations.CanSendAnswersReceiving : Prop :=
  ∀ s : State, completesWith .canSend s [] id [if s.radio = .receiving then 0x01#8 else 0x00#8]

/-- R130: the only transitions of RadioState. -/
def Obligations.RadioStateHasOnlyTheseTransitions : Prop :=
  ∀ (i : Instr) (s t : State), exec i s = .next t → t.radio ≠ s.radio →
    (s.radio = .receiving ∧ t.radio = .sending ∧ i.isSend = true) ∨
    (s.radio = .sending ∧ t.radio = .receiving ∧ (i = .receive ∨ (i = .poll ∧ nextAutomode s = false)))

/-! ## The ring buffer (42_ring_buffer.md) -/

/-- R163: AVAILABLE answers whether the indices differ, in every phase, and changes nothing. -/
def Obligations.AvailableComparesTheIndices : Prop :=
  ∀ s : State, completesWith .available s [] id [if s.rIdx ≠ s.wIdx then 0x01#8 else 0x00#8]

/-- R166, R168: READ. Empty: length 0, and nothing changes. Fixed length: PC and the PC bytes of slot r_idx. Variable
length: the slot's first byte clamped to PC, and that many bytes from offset 1. With a frame, r_idx advances modulo N
and nothing else changes. -/
def Obligations.ReadAnswersTheNextFrame : Prop :=
  ∀ s : State,
    (s.rIdx = s.wIdx → completesWith .read s [] id [0x00#8]) ∧
    (∀ data : List Byte, s.rIdx ≠ s.wIdx → s.vl = false → data.length = s.pc.toNat →
      s.rIdx.toNat * s.c.toNat + s.pc.toNat ≤ Config.params.arenaBytes →
      (∀ j (hj : j < data.length), Memory.read? s.arena (s.rIdx.toNat * s.c.toNat + j) = some data[j]) →
      exec .read s = .next { s with
        rIdx := BitVec.ofNat 8 ((s.rIdx.toNat + 1) % s.n.toNat),
        responses := s.responses ++ [BitVec.ofNat 8 s.pc.toNat :: data] }) ∧
    ∀ (first : Byte) (data : List Byte), s.rIdx ≠ s.wIdx → s.vl = true →
      Memory.read? s.arena (s.rIdx.toNat * s.c.toNat) = some first → data.length = min first.toNat s.pc.toNat →
      s.rIdx.toNat * s.c.toNat + 1 + data.length ≤ Config.params.arenaBytes →
      (∀ j (hj : j < data.length), Memory.read? s.arena (s.rIdx.toNat * s.c.toNat + 1 + j) = some data[j]) →
      exec .read s = .next { s with
        rIdx := BitVec.ofNat 8 ((s.rIdx.toNat + 1) % s.n.toNat),
        responses := s.responses ++ [BitVec.ofNat 8 (min first.toNat s.pc.toNat) :: data] }

/-- R162: a POLL that drains moves the number of pending frames from k to (k + 1) mod N, so from N - 1 pending frames
it leaves none visible; a POLL that does not drain leaves it. The slot it fills is not a pending one. -/
def Obligations.PushMovesThePendingCount : Prop :=
  ∀ s t : State, CoreInv Config.params s → s.phase = .ready → s.blocked = none → exec .poll s = .next t →
    t.blocked = none →
    (s.radio = .receiving → nextAutomode s = true → pendingCount t = (pendingCount s + 1) % s.n.toNat) ∧
    (¬ (s.radio = .receiving ∧ nextAutomode s = true) → pendingCount t = pendingCount s) ∧
    ∀ j, j < pendingCount s → (s.rIdx.toNat + j) % s.n.toNat ≠ s.wIdx.toNat

/-- R164: READ takes one frame off the pending count until it is 0, and then reports empty; the count is below N. -/
def Obligations.ReadTakesOnePendingFrame : Prop :=
  ∀ s t : State, CoreInv Config.params s → s.phase = .ready → exec .read s = .next t →
    pendingCount s < s.n.toNat ∧ pendingCount t = pendingCount s - 1 ∧ (pendingCount s = 0 ↔ s.rIdx = s.wIdx)

/-- R165: with N = 1 AVAILABLE always answers 0x00 and READ always reports empty. -/
def Obligations.OneSlotNeverShowsAFrame : Prop :=
  ∀ s : State, CoreInv Config.params s → s.phase = .ready → s.n = 1#8 →
    completesWith .available s [] id [0x00#8] ∧ completesWith .read s [] id [0x00#8] ∧
    ∀ t, exec .poll s = .next t → t.wIdx = t.rIdx

/-! ## Invariants and whole-machine rules -/

/-- R40 at reset. -/
def Obligations.ResetMeetsTheRegisterInvariants : Prop := CoreInv Config.params State.reset

/-- R40: every step preserves the invariants of the registers. -/
def Obligations.StepPreservesTheRegisterInvariants : Prop :=
  ∀ s t : State, CoreInv Config.params s → step s = .next t → CoreInv Config.params t

/-- R52: every step keeps every pending slot filled by a drain, so READ never meets an unwritten byte. That such a byte
holds no value is the model's choice (log 8). -/
def Obligations.StepKeepsPendingSlotsFilled : Prop :=
  ∀ s t : State, CoreInv Config.params s → SlotsFilled s → step s = .next t → SlotsFilled t

/-- R52, R168, R220: with the invariants READ always answers a next state, with at most PC ≤ 66 data bytes (R84). -/
def Obligations.ReadAlwaysAnswers : Prop :=
  ∀ s : State, CoreInv Config.params s → SlotsFilled s → ∃ (t : State) (data : List Byte), exec .read s = .next t ∧
    t.responses = s.responses ++ [BitVec.ofNat 8 data.length :: data] ∧ data.length ≤ 66 ∧
    t = { s with rIdx := t.rIdx, responses := t.responses }

/-- With the invariants no step stops the model but on a command that is refused: READ and the drain stay inside the
arena (R50), so neither of the model's own faults, its choices for an unwritten byte (log 8) and for an address outside
the arena (log 9), is reached. -/
def Obligations.NoStepFaultsUnderTheInvariants : Prop :=
  ∀ (s : State) (f : Fault), CoreInv Config.params s → SlotsFilled s → step s ≠ .fault f

/-- The arena keeps its canonical form in every step: addresses strictly rising, each listed once. The
list form is the model's choice (log 8). -/
def Obligations.StepKeepsTheArenaCanonical : Prop :=
  ∀ s t : State, Memory.wf s.arena = true → step s = .next t → Memory.wf t.arena = true

/-- R258 at reset: no boost register is On. -/
def Obligations.ResetMeetsTheBoostInvariant : Prop := BoostInv State.reset

/-- R259: while the host keeps the duty of R260, BOOST_IN_RX never holds after any transaction: a step from a state
of the invariant leaves it, and the ghost state after each transaction the step adds to the trace is safe. For a step
that stalls, the ghost and trace clauses rest on the model's choice that a stalled transaction leaves no trace entry and
no ghost update (log 3). -/
def Obligations.BoostIsNeverOnInReceive : Prop :=
  ∀ s t : State, BoostInv s → keepsPowerDuty s → step s = .next t →
    BoostInv t ∧ ∃ ops, t.trace = s.trace ++ ops ∧ boostSafeAlong s.ghost ops ∧
      (¬ resetComes s → t.ghost = s.ghost.afterAll ops)

/-- R260: a SET_POWER that clears BOOST while Sending with the boost registers On makes the next RECEIVE, and the next
POLL that reads am = 0, leave them On in Receiver: BOOST_IN_RX holds. -/
def Obligations.PowerChangeWhileSendingBreaksBoostSafety : Prop :=
  ∀ (dbm : Byte) (s t u : State), s.phase = .ready → s.radio = .sending → s.ghost.boost1 = .on → s.boost = true →
    s.blocked = none → exec (.setPower dbm false) s = .next t → t.blocked = none →
    (exec .receive t = .next u ∨ (nextAutomode t = false ∧ exec .poll t = .next u)) → u.blocked = none →
    boostInRx u.ghost = true

/-- R39, the column "written by", with the phases of the writers' rules: which commands change which register, and in
which phase: READY for RECEIVE, SEND and POLL (R132, R135, R140), the phases of their own rules for the configuration
commands, every phase for the others. FAULT is written by a command whose row of the fault table applies (R220), and an
illegal word, which is no command, has a statement of its own. For w_idx and r_idx it also lets CFG_PAYLOAD in SIZED be a writer, since R116 writes both. No command
changes what the host presents (R21); that it stands in the state is the model's choice (log 5). -/
def Obligations.RegistersHaveOnlyTheirWriters : Prop :=
  ∀ (i : Instr) (s t : State), exec i s = .next t →
    (t.radio ≠ s.radio → s.phase = .ready ∧ (i = .receive ∨ i = .poll ∨ i.isSend = true)) ∧
    (t.vl ≠ s.vl ∨ t.ad ≠ s.ad → s.phase = .opened ∧ ∃ v a, i = .cfgFrame v a) ∧
    (t.aes ≠ s.aes → s.phase = .opened ∧ ∃ e, i = .cfgAes e) ∧
    (t.pUser ≠ s.pUser ∨ t.pc ≠ s.pc ∨ t.c ≠ s.c → s.phase = .sized ∧ ∃ p, i = .cfgPayload p) ∧
    (t.n ≠ s.n → s.phase ≠ .ready ∧ ∃ m, i = .cfgSlots m) ∧
    (t.wIdx ≠ s.wIdx → (s.phase = .ready ∧ i = .poll) ∨ (s.phase = .sized ∧ ∃ p, i = .cfgPayload p)) ∧
    (t.rIdx ≠ s.rIdx → i = .read ∨ (s.phase = .sized ∧ ∃ p, i = .cfgPayload p)) ∧
    (t.phase ≠ s.phase → (t.phase = .sized ∧ s.phase = .opened ∧ ∃ m, i = .cfgSlots m) ∨
      (t.phase = .ready ∧ s.phase = .sized ∧ ∃ p, i = .cfgPayload p)) ∧
    (t.hp ≠ s.hp → t.hp = .highPower ∧ i = .setHighpower) ∧
    (t.boost ≠ s.boost → ∃ p b, i = .setPower p b) ∧
    (t.arena ≠ s.arena → s.phase = .ready ∧ i = .poll) ∧
    (t.fault ≠ s.fault → ∃ code, tableFault i s = some code ∧ t = faulted code i s) ∧
    t.port = s.port ∧ t.hostCursor = s.hostCursor

/-- R51, R50, R140 and R184 to R186: no command but POLL writes the arena, and POLL writes only inside slot w_idx. -/
def Obligations.OnlyTheDrainWritesTheArena : Prop :=
  ∀ (i : Instr) (s t : State), CoreInv Config.params s → exec i s = .next t →
    (i ≠ .poll → t.arena = s.arena) ∧
    ∀ a, (a < s.wIdx.toNat * s.c.toNat ∨ (s.wIdx.toNat + 1) * s.c.toNat ≤ a) →
      Memory.read? t.arena a = Memory.read? s.arena a

/-- R25, R113: no command reads AES. Another AES changes nothing else in the outcome of any other command. -/
def Obligations.NoCommandReadsAes : Prop :=
  ∀ (i : Instr) (s : State) (e : Bool), (∀ b, i ≠ .cfgAes b) →
    exec i { s with aes := e } = mapNext (fun t => { t with aes := e }) (exec i s)

/-- R37: no rule of the CORE reads a ghost field: other ghost values give the same outcome but for the ghost. -/
def Obligations.NoCommandReadsTheGhost : Prop :=
  ∀ (i : Instr) (s : State) (g : Ghost),
    mapNext forgetGhost (exec i { s with ghost := g }) = mapNext forgetGhost (exec i s)

/-- R188: round trip of every frame mode. A sender and a receiver with the same configuration; the receiver's FIFO
answers exactly the sender's frame; then the receiver's POLL and READ give back the payload, with the address in front
where there is one (R187), and take exactly those bytes. -/
def Obligations.SentFramesAreReadBack : Prop :=
  ∀ (i : Instr) (data frame rest : List Byte) (flags : Byte) (s t r : State),
    deliveredData i = some data → exec i s = .next t → t.fault = none → t.blocked = none →
    t.trace.getLast? = some (.fifoWrite frame) →
    CoreInv Config.params r → r.phase = .ready → r.vl = s.vl → r.ad = s.ad → r.pUser = s.pUser →
    data.length ≤ r.pc.toNat → 2 ≤ r.n.toNat → r.rIdx = r.wIdx → r.radio = .receiving → r.stalls = [] →
    r.chipBytes = flags :: frame ++ rest → flags.getLsbD Config.params.amBit.val = true →
    ∃ u v : State, exec .poll r = .next u ∧ exec .read u = .next v ∧
      v.responses = r.responses ++ [[], BitVec.ofNat 8 data.length :: data] ∧ v.chipBytes = rest ∧ v.rIdx = v.wIdx

/-- R250: reset abandons the command in progress. At its last step before its response, or where it stalls, the
transactions it has completed stay completed, it places no response, and every register has its reset value. A command
that the CORE does not accept, and an illegal word, leave the reset alone. What the ports have shown and the inputs stay
(log 6), the arena lists nothing (log 8), and where a command can be cut (log 7), are the model's choices. -/
def Obligations.ResetAbandonsTheCommandInProgress : Prop :=
  ∀ (s : State) (bytes : List Byte) (rest : List HostEvent) (cursor : Option Nat),
    hostPresents s (.abandoned bytes) rest cursor →
    (∀ (i : Instr) (t : State), acceptsCommands s → decode bytes = .ok i →
      exec i { s with port := rest, hostCursor := cursor } = .next t →
      step s = .next { State.reset with
        responses := s.responses, trace := t.trace, port := rest, hostCursor := cursor, chipBytes := t.chipBytes,
        drawn := t.drawn, stalls := t.stalls, stallCursor := t.stallCursor }) ∧
    (¬ acceptsCommands s ∨ (∃ w, decode bytes = .error (.illegal w)) →
      step s = .next { State.reset with
        responses := s.responses, trace := s.trace, port := rest, hostCursor := cursor, chipBytes := s.chipBytes,
        drawn := s.drawn, stalls := s.stalls, stallCursor := s.stallCursor }) ∧
    (acceptsCommands s → (∀ w, decode bytes = .error (.outOfScope w) → step s = .refused (.outOfScope w)) ∧
      (decode bytes = .error .illFormed → step s = .refused .illFormed))

/-- R21: a host without end never runs out of events, whatever they are. Once its listed events are taken, every step
takes its next one, in order, one at a time. The form in which such a program is held (log 5), and that a command the
CORE does not accept stays presented (log 15), are the model's choices. -/
def Obligations.HostWithoutEndKeepsPresenting : Prop :=
  ∀ (s t : State) (k : Nat), s.port = [] → s.hostCursor = some k → step s = .next t →
    t.port = [] ∧ (t.hostCursor = some (k + 1) ∨
      (t = s ∧ ¬ acceptsCommands s ∧ ∃ bytes, Config.hostEvent k = .command bytes))

/-- R61: a command blocked in a transaction has taken the steps its rule has before that transaction, and no other. It
has written VL and AD (R110), AES (R112), and the allocation (R116), whose rules write before they issue; not BOOST
(R203), which comes after the level is set; not `state` in RECEIVE (R131); and `state` in SEND exactly if it is blocked
in the FIFO write (R134). The trace and the ghost fields hold the transactions before it, the model's choice for the
stalled one (log 3); where it stalls comes from the input list (log 2). -/
def Obligations.StalledCommandsHaveTakenTheirEarlierSteps : Prop :=
  ∀ s : State,
    (∀ vl ad, s.phase = .opened →
      stallsWith (.cfgFrame vl ad) s [.cfgFrame vl ad] (fun _ t => { t with vl := vl, ad := ad })) ∧
    (∀ e, s.phase = .opened → stallsWith (.cfgAes e) s [.cfgAes e] (fun _ t => { t with aes := e })) ∧
    (∀ (pReq : Byte) (pc c : Nat), pc = pReq.toNat + s.ad.toNat + s.vl.toNat → c = pc + s.vl.toNat →
      s.phase = .sized → pReq.toNat ≤ 64 → s.n.toNat * c ≤ Config.params.arenaBytes →
      stallsWith (.cfgPayload pReq) s [.cfgLen (BitVec.ofNat 7 pc)]
        (fun _ t => { t with
          pUser := BitVec.ofNat 7 pReq.toNat, pc := BitVec.ofNat 7 pc, c := BitVec.ofNat 7 c, wIdx := 0#8, rIdx := 0#8,
          phase := .ready })) ∧
    (∀ (dbm : Byte) (b : Bool), s.hp = .standard →
      stallsWith (.setPower dbm b) s [.paLevel .s0 (BitVec.ofInt 5 (min (max dbm.toInt (-18)) 13 + 18))]
        (fun _ t => t)) ∧
    (∀ (dbm : Byte) (b : Bool) (q : Int), s.hp = .highPower → q = min (max dbm.toInt (-2)) (if b then 20 else 17) →
      stallsWith (.setPower dbm b) s
        ((if b then [.ocpOff] else []) ++
          [if q ≤ 13 then .paLevel .s1 (BitVec.ofInt 5 (q + 18)) else .paLevel .s1s2 (BitVec.ofInt 5 (q + 11))])
        (fun _ t => t)) ∧
    (s.phase = .ready → stallsWith .receive s (armRxOps s.boost) (fun _ t => t)) ∧
    (∀ payload, sendStallsWith (.send payload) false false (payload.length = s.pUser.toNat) payload s) ∧
    (∀ address payload,
      sendStallsWith (.sendAddr address payload) false true (payload.length = s.pUser.toNat) (address :: payload) s) ∧
    (∀ payload,
      sendStallsWith (.sendVar payload) true false True (BitVec.ofNat 8 payload.length :: payload) s) ∧
    ∀ address payload,
      sendStallsWith (.sendAddrVar address payload) true true (payload.length ≤ 254)
        (BitVec.ofNat 8 (payload.length + 1) :: address :: payload) s

/-- R61, R140, R131, R184: a POLL blocked in a transaction has written no register and no arena byte: it stalls in the
flag read, in a transaction of ARM_RX, or in a FIFO read, which all come before the writes. It has taken the bytes of
the reads that have completed. The trace and the ghost fields hold the transactions before the stalled one (log 3); where
it stalls comes from the input list (log 2). -/
def Obligations.StalledPollsHaveWrittenNothing : Prop :=
  ∀ (s : State) (later : List Nat), s.phase = .ready → ∃ (left : List Nat) (cursor : Option Nat),
    (s.stalls = 0 :: later → exec .poll s = .next
      { s with blocked := some .flags1, stalls := left, stallCursor := cursor }) ∧
    (s.radio = .sending → nextAutomode s = false → ∀ (j : Nat) (hj : j < (armRxOps s.boost).length),
      s.stalls = (j + 1) :: later → exec .poll s = .next
        { (s.completed .flags1).dropDraw.completedAll ((armRxOps s.boost).take j) with
          blocked := some (armRxOps s.boost)[j], stalls := left, stallCursor := cursor }) ∧
    (s.radio = .receiving → nextAutomode s = true → s.vl = false → s.stalls = 1 :: later → exec .poll s = .next
      { (s.completed .flags1).dropDraw with
        blocked := some (.fifoRead s.pc.toNat), stalls := left, stallCursor := cursor }) ∧
    (s.radio = .receiving → nextAutomode s = true → s.vl = true → s.stalls = 1 :: later → exec .poll s = .next
      { (s.completed .flags1).dropDraw with
        blocked := some (.fifoRead 1), stalls := left, stallCursor := cursor }) ∧
    (s.radio = .receiving → nextAutomode s = true → s.vl = true → s.stalls = 2 :: later → exec .poll s = .next
      { ((s.completed .flags1).dropDraw.completed (.fifoRead 1)).dropDraw with
        blocked := some (.fifoRead (min s.dropDraw.nextDraw.toNat (s.c.toNat - 1))),
        stalls := left, stallCursor := cursor })
end

