-- ==== Sys2Proof/Laws/Memory.lean ====
section
/-! SUPPORT. The laws of the arena's cells: a read after a write, the frame of a write, and the canonical form
(20_memory.md R50, R51, R62). -/

namespace Sys2Proof.Machine

/-- A byte reads as what was last written there (20_memory.md R62). -/
@[simp] theorem Memory.read?_write_same (m : Memory) (a : Nat) (b : Byte) :
    Memory.read? (Memory.write m a b) a = some b := by
  induction m with
  | nil => simp [Memory.write, Memory.read?]
  | cons cell rest ih =>
    obtain ⟨key, old⟩ := cell
    simp only [Memory.write]
    split
    · simp [Memory.read?]
    · split
      · simp [Memory.read?, *]
      · simp [Memory.read?, *]

/-- A write leaves every other byte alone. -/
theorem Memory.read?_write_other {m : Memory} {a a' : Nat} {b : Byte} (h : a' ≠ a) :
    Memory.read? (Memory.write m a b) a' = Memory.read? m a' := by
  induction m with
  | nil => simp [Memory.write, Memory.read?, h]
  | cons cell rest ih =>
    obtain ⟨key, old⟩ := cell
    simp only [Memory.write]
    split
    · simp [Memory.read?, h]
    · split
      · rename_i hk; subst hk; simp [Memory.read?, h]
      · simp [Memory.read?, ih]

/-- `MemWrite` leaves every byte outside `[a, a + n)` alone (20_memory.md R51). -/
theorem Memory.read?_writeAll_outside {m : Memory} {a a' : Nat} {bs : List Byte}
    (h : a' < a ∨ a + bs.length ≤ a') : Memory.read? (Memory.writeAll m a bs) a' = Memory.read? m a' := by
  induction bs generalizing m a with
  | nil => rfl
  | cons b bs ih =>
    simp only [List.length_cons] at h
    rw [Memory.writeAll, ih (by omega), Memory.read?_write_other (by omega)]

/-- Byte j of what `MemWrite` wrote reads back (20_memory.md R51). -/
theorem Memory.read?_writeAll_inside {m : Memory} {a j : Nat} {bs : List Byte} (h : j < bs.length) :
    Memory.read? (Memory.writeAll m a bs) (a + j) = some bs[j] := by
  induction bs generalizing m a j with
  | nil => simp at h
  | cons b bs ih =>
    cases j with
    | zero => rw [Memory.writeAll, Memory.read?_writeAll_outside (by omega)]; simp
    | succ j =>
      have hj : j < bs.length := by simpa using h
      have := ih (m := Memory.write m a b) (a := a + 1) hj
      rw [Memory.writeAll, show a + (j + 1) = a + 1 + j by omega, this]
      simp

@[simp] theorem Memory.above_cons {bound key : Nat} {b : Byte} {m : Memory} :
    Memory.above bound ((key, b) :: m) = true ↔ bound < key ∧ Memory.above bound m = true := by
  simp [Memory.above]

@[simp] theorem Memory.wf_cons {key : Nat} {b : Byte} {m : Memory} :
    Memory.wf ((key, b) :: m) = true ↔ Memory.above key m = true ∧ Memory.wf m = true := by
  simp [Memory.wf]

theorem Memory.above_write {bound : Nat} {m : Memory} {a : Nat} {b : Byte} (hm : Memory.above bound m = true)
    (ha : bound < a) : Memory.above bound (Memory.write m a b) = true := by
  induction m with
  | nil => simpa [Memory.write, Memory.above] using ha
  | cons cell rest ih =>
    obtain ⟨key, old⟩ := cell
    rw [Memory.above_cons] at hm
    simp only [Memory.write]
    split
    · simp only [Memory.above_cons]; exact ⟨ha, hm⟩
    · split
      · simp only [Memory.above_cons]; exact hm
      · simp only [Memory.above_cons]; exact ⟨hm.1, ih hm.2⟩

theorem Memory.above_trans {bound key : Nat} {m : Memory} (h : bound < key) (hm : Memory.above key m = true) :
    Memory.above bound m = true := by
  simp only [Memory.above, List.all_eq_true, decide_eq_true_eq] at hm ⊢
  exact fun c hc => Nat.lt_trans h (hm c hc)

/-- A write keeps the canonical form. -/
theorem Memory.wf_write {m : Memory} {a : Nat} {b : Byte} (h : Memory.wf m = true) :
    Memory.wf (Memory.write m a b) = true := by
  induction m with
  | nil => rfl
  | cons cell rest ih =>
    obtain ⟨key, old⟩ := cell
    rw [Memory.wf_cons] at h
    simp only [Memory.write]
    split
    · rename_i hk
      simp only [Memory.wf_cons, Memory.above_cons]
      exact ⟨⟨hk, Memory.above_trans hk h.1⟩, h⟩
    · split
      · simp only [Memory.wf_cons]; exact h
      · simp only [Memory.wf_cons]; exact ⟨Memory.above_write h.1 (by omega), ih h.2⟩

/-- `MemWrite` keeps the canonical form. -/
theorem Memory.wf_writeAll {m : Memory} {a : Nat} {bs : List Byte} (h : Memory.wf m = true) :
    Memory.wf (Memory.writeAll m a bs) = true := by
  induction bs generalizing m a with
  | nil => exact h
  | cons b bs ih => exact ih (Memory.wf_write h)

/-- The arena at reset is in canonical form. -/
theorem Memory.wf_reset : Memory.wf State.reset.arena = true := rfl

end Sys2Proof.Machine
end

