-- ==== Sys2Proof/Laws/State.lean ====
section
/-! SUPPORT. One lemma per field per named update of State, so that no proof unfolds a record update. -/

namespace Sys2Proof.Machine

variable (s : State)

/-! ## `state <- r` (10_state.md R22) -/

@[simp] theorem State.setRadio_radio (r : RadioState) : (s.setRadio r).radio = r := rfl
@[simp] theorem State.setRadio_vl (r : RadioState) : (s.setRadio r).vl = s.vl := rfl
@[simp] theorem State.setRadio_ad (r : RadioState) : (s.setRadio r).ad = s.ad := rfl
@[simp] theorem State.setRadio_aes (r : RadioState) : (s.setRadio r).aes = s.aes := rfl
@[simp] theorem State.setRadio_pUser (r : RadioState) : (s.setRadio r).pUser = s.pUser := rfl
@[simp] theorem State.setRadio_pc (r : RadioState) : (s.setRadio r).pc = s.pc := rfl
@[simp] theorem State.setRadio_c (r : RadioState) : (s.setRadio r).c = s.c := rfl
@[simp] theorem State.setRadio_n (r : RadioState) : (s.setRadio r).n = s.n := rfl
@[simp] theorem State.setRadio_wIdx (r : RadioState) : (s.setRadio r).wIdx = s.wIdx := rfl
@[simp] theorem State.setRadio_rIdx (r : RadioState) : (s.setRadio r).rIdx = s.rIdx := rfl
@[simp] theorem State.setRadio_phase (r : RadioState) : (s.setRadio r).phase = s.phase := rfl
@[simp] theorem State.setRadio_hp (r : RadioState) : (s.setRadio r).hp = s.hp := rfl
@[simp] theorem State.setRadio_boost (r : RadioState) : (s.setRadio r).boost = s.boost := rfl
@[simp] theorem State.setRadio_fault (r : RadioState) : (s.setRadio r).fault = s.fault := rfl
@[simp] theorem State.setRadio_arena (r : RadioState) : (s.setRadio r).arena = s.arena := rfl
@[simp] theorem State.setRadio_ghost (r : RadioState) : (s.setRadio r).ghost = s.ghost := rfl
@[simp] theorem State.setRadio_responses (r : RadioState) : (s.setRadio r).responses = s.responses := rfl
@[simp] theorem State.setRadio_trace (r : RadioState) : (s.setRadio r).trace = s.trace := rfl
@[simp] theorem State.setRadio_blocked (r : RadioState) : (s.setRadio r).blocked = s.blocked := rfl
@[simp] theorem State.setRadio_port (r : RadioState) : (s.setRadio r).port = s.port := rfl
@[simp] theorem State.setRadio_hostCursor (r : RadioState) : (s.setRadio r).hostCursor = s.hostCursor := rfl
@[simp] theorem State.setRadio_stallCursor (r : RadioState) : (s.setRadio r).stallCursor = s.stallCursor := rfl
@[simp] theorem State.setRadio_chipBytes (r : RadioState) : (s.setRadio r).chipBytes = s.chipBytes := rfl
@[simp] theorem State.setRadio_drawn (r : RadioState) : (s.setRadio r).drawn = s.drawn := rfl
@[simp] theorem State.setRadio_stalls (r : RadioState) : (s.setRadio r).stalls = s.stalls := rfl

/-! ## `VL <- v`, `AD <- a` (10_state.md R23, R24) -/

@[simp] theorem State.setFrameMode_radio (v a : Bool) : (s.setFrameMode v a).radio = s.radio := rfl
@[simp] theorem State.setFrameMode_vl (v a : Bool) : (s.setFrameMode v a).vl = v := rfl
@[simp] theorem State.setFrameMode_ad (v a : Bool) : (s.setFrameMode v a).ad = a := rfl
@[simp] theorem State.setFrameMode_aes (v a : Bool) : (s.setFrameMode v a).aes = s.aes := rfl
@[simp] theorem State.setFrameMode_pUser (v a : Bool) : (s.setFrameMode v a).pUser = s.pUser := rfl
@[simp] theorem State.setFrameMode_pc (v a : Bool) : (s.setFrameMode v a).pc = s.pc := rfl
@[simp] theorem State.setFrameMode_c (v a : Bool) : (s.setFrameMode v a).c = s.c := rfl
@[simp] theorem State.setFrameMode_n (v a : Bool) : (s.setFrameMode v a).n = s.n := rfl
@[simp] theorem State.setFrameMode_wIdx (v a : Bool) : (s.setFrameMode v a).wIdx = s.wIdx := rfl
@[simp] theorem State.setFrameMode_rIdx (v a : Bool) : (s.setFrameMode v a).rIdx = s.rIdx := rfl
@[simp] theorem State.setFrameMode_phase (v a : Bool) : (s.setFrameMode v a).phase = s.phase := rfl
@[simp] theorem State.setFrameMode_hp (v a : Bool) : (s.setFrameMode v a).hp = s.hp := rfl
@[simp] theorem State.setFrameMode_boost (v a : Bool) : (s.setFrameMode v a).boost = s.boost := rfl
@[simp] theorem State.setFrameMode_fault (v a : Bool) : (s.setFrameMode v a).fault = s.fault := rfl
@[simp] theorem State.setFrameMode_arena (v a : Bool) : (s.setFrameMode v a).arena = s.arena := rfl
@[simp] theorem State.setFrameMode_ghost (v a : Bool) : (s.setFrameMode v a).ghost = s.ghost := rfl
@[simp] theorem State.setFrameMode_responses (v a : Bool) : (s.setFrameMode v a).responses = s.responses := rfl
@[simp] theorem State.setFrameMode_trace (v a : Bool) : (s.setFrameMode v a).trace = s.trace := rfl
@[simp] theorem State.setFrameMode_blocked (v a : Bool) : (s.setFrameMode v a).blocked = s.blocked := rfl
@[simp] theorem State.setFrameMode_port (v a : Bool) : (s.setFrameMode v a).port = s.port := rfl
@[simp] theorem State.setFrameMode_hostCursor (v a : Bool) : (s.setFrameMode v a).hostCursor = s.hostCursor := rfl
@[simp] theorem State.setFrameMode_stallCursor (v a : Bool) : (s.setFrameMode v a).stallCursor = s.stallCursor := rfl
@[simp] theorem State.setFrameMode_chipBytes (v a : Bool) : (s.setFrameMode v a).chipBytes = s.chipBytes := rfl
@[simp] theorem State.setFrameMode_drawn (v a : Bool) : (s.setFrameMode v a).drawn = s.drawn := rfl
@[simp] theorem State.setFrameMode_stalls (v a : Bool) : (s.setFrameMode v a).stalls = s.stalls := rfl

/-! ## `AES <- e` (10_state.md R25) -/

@[simp] theorem State.setAes_radio (e : Bool) : (s.setAes e).radio = s.radio := rfl
@[simp] theorem State.setAes_vl (e : Bool) : (s.setAes e).vl = s.vl := rfl
@[simp] theorem State.setAes_ad (e : Bool) : (s.setAes e).ad = s.ad := rfl
@[simp] theorem State.setAes_aes (e : Bool) : (s.setAes e).aes = e := rfl
@[simp] theorem State.setAes_pUser (e : Bool) : (s.setAes e).pUser = s.pUser := rfl
@[simp] theorem State.setAes_pc (e : Bool) : (s.setAes e).pc = s.pc := rfl
@[simp] theorem State.setAes_c (e : Bool) : (s.setAes e).c = s.c := rfl
@[simp] theorem State.setAes_n (e : Bool) : (s.setAes e).n = s.n := rfl
@[simp] theorem State.setAes_wIdx (e : Bool) : (s.setAes e).wIdx = s.wIdx := rfl
@[simp] theorem State.setAes_rIdx (e : Bool) : (s.setAes e).rIdx = s.rIdx := rfl
@[simp] theorem State.setAes_phase (e : Bool) : (s.setAes e).phase = s.phase := rfl
@[simp] theorem State.setAes_hp (e : Bool) : (s.setAes e).hp = s.hp := rfl
@[simp] theorem State.setAes_boost (e : Bool) : (s.setAes e).boost = s.boost := rfl
@[simp] theorem State.setAes_fault (e : Bool) : (s.setAes e).fault = s.fault := rfl
@[simp] theorem State.setAes_arena (e : Bool) : (s.setAes e).arena = s.arena := rfl
@[simp] theorem State.setAes_ghost (e : Bool) : (s.setAes e).ghost = s.ghost := rfl
@[simp] theorem State.setAes_responses (e : Bool) : (s.setAes e).responses = s.responses := rfl
@[simp] theorem State.setAes_trace (e : Bool) : (s.setAes e).trace = s.trace := rfl
@[simp] theorem State.setAes_blocked (e : Bool) : (s.setAes e).blocked = s.blocked := rfl
@[simp] theorem State.setAes_port (e : Bool) : (s.setAes e).port = s.port := rfl
@[simp] theorem State.setAes_hostCursor (e : Bool) : (s.setAes e).hostCursor = s.hostCursor := rfl
@[simp] theorem State.setAes_stallCursor (e : Bool) : (s.setAes e).stallCursor = s.stallCursor := rfl
@[simp] theorem State.setAes_chipBytes (e : Bool) : (s.setAes e).chipBytes = s.chipBytes := rfl
@[simp] theorem State.setAes_drawn (e : Bool) : (s.setAes e).drawn = s.drawn := rfl
@[simp] theorem State.setAes_stalls (e : Bool) : (s.setAes e).stalls = s.stalls := rfl

/-! ## `N <- m`, `phase <- SIZED` (10_state.md R29, R31) -/

@[simp] theorem State.chooseSlots_radio (m : BitVec 8) : (s.chooseSlots m).radio = s.radio := rfl
@[simp] theorem State.chooseSlots_vl (m : BitVec 8) : (s.chooseSlots m).vl = s.vl := rfl
@[simp] theorem State.chooseSlots_ad (m : BitVec 8) : (s.chooseSlots m).ad = s.ad := rfl
@[simp] theorem State.chooseSlots_aes (m : BitVec 8) : (s.chooseSlots m).aes = s.aes := rfl
@[simp] theorem State.chooseSlots_pUser (m : BitVec 8) : (s.chooseSlots m).pUser = s.pUser := rfl
@[simp] theorem State.chooseSlots_pc (m : BitVec 8) : (s.chooseSlots m).pc = s.pc := rfl
@[simp] theorem State.chooseSlots_c (m : BitVec 8) : (s.chooseSlots m).c = s.c := rfl
@[simp] theorem State.chooseSlots_n (m : BitVec 8) : (s.chooseSlots m).n = m := rfl
@[simp] theorem State.chooseSlots_wIdx (m : BitVec 8) : (s.chooseSlots m).wIdx = s.wIdx := rfl
@[simp] theorem State.chooseSlots_rIdx (m : BitVec 8) : (s.chooseSlots m).rIdx = s.rIdx := rfl
@[simp] theorem State.chooseSlots_phase (m : BitVec 8) : (s.chooseSlots m).phase = .sized := rfl
@[simp] theorem State.chooseSlots_hp (m : BitVec 8) : (s.chooseSlots m).hp = s.hp := rfl
@[simp] theorem State.chooseSlots_boost (m : BitVec 8) : (s.chooseSlots m).boost = s.boost := rfl
@[simp] theorem State.chooseSlots_fault (m : BitVec 8) : (s.chooseSlots m).fault = s.fault := rfl
@[simp] theorem State.chooseSlots_arena (m : BitVec 8) : (s.chooseSlots m).arena = s.arena := rfl
@[simp] theorem State.chooseSlots_ghost (m : BitVec 8) : (s.chooseSlots m).ghost = s.ghost := rfl
@[simp] theorem State.chooseSlots_responses (m : BitVec 8) : (s.chooseSlots m).responses = s.responses := rfl
@[simp] theorem State.chooseSlots_trace (m : BitVec 8) : (s.chooseSlots m).trace = s.trace := rfl
@[simp] theorem State.chooseSlots_blocked (m : BitVec 8) : (s.chooseSlots m).blocked = s.blocked := rfl
@[simp] theorem State.chooseSlots_port (m : BitVec 8) : (s.chooseSlots m).port = s.port := rfl
@[simp] theorem State.chooseSlots_hostCursor (m : BitVec 8) : (s.chooseSlots m).hostCursor = s.hostCursor := rfl
@[simp] theorem State.chooseSlots_stallCursor (m : BitVec 8) : (s.chooseSlots m).stallCursor = s.stallCursor := rfl
@[simp] theorem State.chooseSlots_chipBytes (m : BitVec 8) : (s.chooseSlots m).chipBytes = s.chipBytes := rfl
@[simp] theorem State.chooseSlots_drawn (m : BitVec 8) : (s.chooseSlots m).drawn = s.drawn := rfl
@[simp] theorem State.chooseSlots_stalls (m : BitVec 8) : (s.chooseSlots m).stalls = s.stalls := rfl

/-! ## `r_idx <- i` (10_state.md R30) -/

@[simp] theorem State.setReadIndex_radio (i : BitVec 8) : (s.setReadIndex i).radio = s.radio := rfl
@[simp] theorem State.setReadIndex_vl (i : BitVec 8) : (s.setReadIndex i).vl = s.vl := rfl
@[simp] theorem State.setReadIndex_ad (i : BitVec 8) : (s.setReadIndex i).ad = s.ad := rfl
@[simp] theorem State.setReadIndex_aes (i : BitVec 8) : (s.setReadIndex i).aes = s.aes := rfl
@[simp] theorem State.setReadIndex_pUser (i : BitVec 8) : (s.setReadIndex i).pUser = s.pUser := rfl
@[simp] theorem State.setReadIndex_pc (i : BitVec 8) : (s.setReadIndex i).pc = s.pc := rfl
@[simp] theorem State.setReadIndex_c (i : BitVec 8) : (s.setReadIndex i).c = s.c := rfl
@[simp] theorem State.setReadIndex_n (i : BitVec 8) : (s.setReadIndex i).n = s.n := rfl
@[simp] theorem State.setReadIndex_wIdx (i : BitVec 8) : (s.setReadIndex i).wIdx = s.wIdx := rfl
@[simp] theorem State.setReadIndex_rIdx (i : BitVec 8) : (s.setReadIndex i).rIdx = i := rfl
@[simp] theorem State.setReadIndex_phase (i : BitVec 8) : (s.setReadIndex i).phase = s.phase := rfl
@[simp] theorem State.setReadIndex_hp (i : BitVec 8) : (s.setReadIndex i).hp = s.hp := rfl
@[simp] theorem State.setReadIndex_boost (i : BitVec 8) : (s.setReadIndex i).boost = s.boost := rfl
@[simp] theorem State.setReadIndex_fault (i : BitVec 8) : (s.setReadIndex i).fault = s.fault := rfl
@[simp] theorem State.setReadIndex_arena (i : BitVec 8) : (s.setReadIndex i).arena = s.arena := rfl
@[simp] theorem State.setReadIndex_ghost (i : BitVec 8) : (s.setReadIndex i).ghost = s.ghost := rfl
@[simp] theorem State.setReadIndex_responses (i : BitVec 8) : (s.setReadIndex i).responses = s.responses := rfl
@[simp] theorem State.setReadIndex_trace (i : BitVec 8) : (s.setReadIndex i).trace = s.trace := rfl
@[simp] theorem State.setReadIndex_blocked (i : BitVec 8) : (s.setReadIndex i).blocked = s.blocked := rfl
@[simp] theorem State.setReadIndex_port (i : BitVec 8) : (s.setReadIndex i).port = s.port := rfl
@[simp] theorem State.setReadIndex_hostCursor (i : BitVec 8) : (s.setReadIndex i).hostCursor = s.hostCursor := rfl
@[simp] theorem State.setReadIndex_stallCursor (i : BitVec 8) : (s.setReadIndex i).stallCursor = s.stallCursor := rfl
@[simp] theorem State.setReadIndex_chipBytes (i : BitVec 8) : (s.setReadIndex i).chipBytes = s.chipBytes := rfl
@[simp] theorem State.setReadIndex_drawn (i : BitVec 8) : (s.setReadIndex i).drawn = s.drawn := rfl
@[simp] theorem State.setReadIndex_stalls (i : BitVec 8) : (s.setReadIndex i).stalls = s.stalls := rfl

/-! ## `HP <- k` (10_state.md R32) -/

@[simp] theorem State.setClass_radio (k : HardwareClass) : (s.setClass k).radio = s.radio := rfl
@[simp] theorem State.setClass_vl (k : HardwareClass) : (s.setClass k).vl = s.vl := rfl
@[simp] theorem State.setClass_ad (k : HardwareClass) : (s.setClass k).ad = s.ad := rfl
@[simp] theorem State.setClass_aes (k : HardwareClass) : (s.setClass k).aes = s.aes := rfl
@[simp] theorem State.setClass_pUser (k : HardwareClass) : (s.setClass k).pUser = s.pUser := rfl
@[simp] theorem State.setClass_pc (k : HardwareClass) : (s.setClass k).pc = s.pc := rfl
@[simp] theorem State.setClass_c (k : HardwareClass) : (s.setClass k).c = s.c := rfl
@[simp] theorem State.setClass_n (k : HardwareClass) : (s.setClass k).n = s.n := rfl
@[simp] theorem State.setClass_wIdx (k : HardwareClass) : (s.setClass k).wIdx = s.wIdx := rfl
@[simp] theorem State.setClass_rIdx (k : HardwareClass) : (s.setClass k).rIdx = s.rIdx := rfl
@[simp] theorem State.setClass_phase (k : HardwareClass) : (s.setClass k).phase = s.phase := rfl
@[simp] theorem State.setClass_hp (k : HardwareClass) : (s.setClass k).hp = k := rfl
@[simp] theorem State.setClass_boost (k : HardwareClass) : (s.setClass k).boost = s.boost := rfl
@[simp] theorem State.setClass_fault (k : HardwareClass) : (s.setClass k).fault = s.fault := rfl
@[simp] theorem State.setClass_arena (k : HardwareClass) : (s.setClass k).arena = s.arena := rfl
@[simp] theorem State.setClass_ghost (k : HardwareClass) : (s.setClass k).ghost = s.ghost := rfl
@[simp] theorem State.setClass_responses (k : HardwareClass) : (s.setClass k).responses = s.responses := rfl
@[simp] theorem State.setClass_trace (k : HardwareClass) : (s.setClass k).trace = s.trace := rfl
@[simp] theorem State.setClass_blocked (k : HardwareClass) : (s.setClass k).blocked = s.blocked := rfl
@[simp] theorem State.setClass_port (k : HardwareClass) : (s.setClass k).port = s.port := rfl
@[simp] theorem State.setClass_hostCursor (k : HardwareClass) : (s.setClass k).hostCursor = s.hostCursor := rfl
@[simp] theorem State.setClass_stallCursor (k : HardwareClass) : (s.setClass k).stallCursor = s.stallCursor := rfl
@[simp] theorem State.setClass_chipBytes (k : HardwareClass) : (s.setClass k).chipBytes = s.chipBytes := rfl
@[simp] theorem State.setClass_drawn (k : HardwareClass) : (s.setClass k).drawn = s.drawn := rfl
@[simp] theorem State.setClass_stalls (k : HardwareClass) : (s.setClass k).stalls = s.stalls := rfl

/-! ## `BOOST <- b` (10_state.md R33) -/

@[simp] theorem State.setBoost_radio (b : Bool) : (s.setBoost b).radio = s.radio := rfl
@[simp] theorem State.setBoost_vl (b : Bool) : (s.setBoost b).vl = s.vl := rfl
@[simp] theorem State.setBoost_ad (b : Bool) : (s.setBoost b).ad = s.ad := rfl
@[simp] theorem State.setBoost_aes (b : Bool) : (s.setBoost b).aes = s.aes := rfl
@[simp] theorem State.setBoost_pUser (b : Bool) : (s.setBoost b).pUser = s.pUser := rfl
@[simp] theorem State.setBoost_pc (b : Bool) : (s.setBoost b).pc = s.pc := rfl
@[simp] theorem State.setBoost_c (b : Bool) : (s.setBoost b).c = s.c := rfl
@[simp] theorem State.setBoost_n (b : Bool) : (s.setBoost b).n = s.n := rfl
@[simp] theorem State.setBoost_wIdx (b : Bool) : (s.setBoost b).wIdx = s.wIdx := rfl
@[simp] theorem State.setBoost_rIdx (b : Bool) : (s.setBoost b).rIdx = s.rIdx := rfl
@[simp] theorem State.setBoost_phase (b : Bool) : (s.setBoost b).phase = s.phase := rfl
@[simp] theorem State.setBoost_hp (b : Bool) : (s.setBoost b).hp = s.hp := rfl
@[simp] theorem State.setBoost_boost (b : Bool) : (s.setBoost b).boost = b := rfl
@[simp] theorem State.setBoost_fault (b : Bool) : (s.setBoost b).fault = s.fault := rfl
@[simp] theorem State.setBoost_arena (b : Bool) : (s.setBoost b).arena = s.arena := rfl
@[simp] theorem State.setBoost_ghost (b : Bool) : (s.setBoost b).ghost = s.ghost := rfl
@[simp] theorem State.setBoost_responses (b : Bool) : (s.setBoost b).responses = s.responses := rfl
@[simp] theorem State.setBoost_trace (b : Bool) : (s.setBoost b).trace = s.trace := rfl
@[simp] theorem State.setBoost_blocked (b : Bool) : (s.setBoost b).blocked = s.blocked := rfl
@[simp] theorem State.setBoost_port (b : Bool) : (s.setBoost b).port = s.port := rfl
@[simp] theorem State.setBoost_hostCursor (b : Bool) : (s.setBoost b).hostCursor = s.hostCursor := rfl
@[simp] theorem State.setBoost_stallCursor (b : Bool) : (s.setBoost b).stallCursor = s.stallCursor := rfl
@[simp] theorem State.setBoost_chipBytes (b : Bool) : (s.setBoost b).chipBytes = s.chipBytes := rfl
@[simp] theorem State.setBoost_drawn (b : Bool) : (s.setBoost b).drawn = s.drawn := rfl
@[simp] theorem State.setBoost_stalls (b : Bool) : (s.setBoost b).stalls = s.stalls := rfl

/-! ## `FAULT <- (code, word)` (10_state.md R34) -/

@[simp] theorem State.setFault_radio (code : FaultCode) (word : CommandWord) : (s.setFault code word).radio = s.radio := rfl
@[simp] theorem State.setFault_vl (code : FaultCode) (word : CommandWord) : (s.setFault code word).vl = s.vl := rfl
@[simp] theorem State.setFault_ad (code : FaultCode) (word : CommandWord) : (s.setFault code word).ad = s.ad := rfl
@[simp] theorem State.setFault_aes (code : FaultCode) (word : CommandWord) : (s.setFault code word).aes = s.aes := rfl
@[simp] theorem State.setFault_pUser (code : FaultCode) (word : CommandWord) : (s.setFault code word).pUser = s.pUser := rfl
@[simp] theorem State.setFault_pc (code : FaultCode) (word : CommandWord) : (s.setFault code word).pc = s.pc := rfl
@[simp] theorem State.setFault_c (code : FaultCode) (word : CommandWord) : (s.setFault code word).c = s.c := rfl
@[simp] theorem State.setFault_n (code : FaultCode) (word : CommandWord) : (s.setFault code word).n = s.n := rfl
@[simp] theorem State.setFault_wIdx (code : FaultCode) (word : CommandWord) : (s.setFault code word).wIdx = s.wIdx := rfl
@[simp] theorem State.setFault_rIdx (code : FaultCode) (word : CommandWord) : (s.setFault code word).rIdx = s.rIdx := rfl
@[simp] theorem State.setFault_phase (code : FaultCode) (word : CommandWord) : (s.setFault code word).phase = s.phase := rfl
@[simp] theorem State.setFault_hp (code : FaultCode) (word : CommandWord) : (s.setFault code word).hp = s.hp := rfl
@[simp] theorem State.setFault_boost (code : FaultCode) (word : CommandWord) : (s.setFault code word).boost = s.boost := rfl
@[simp] theorem State.setFault_fault (code : FaultCode) (word : CommandWord) : (s.setFault code word).fault = some ⟨code, word⟩ := rfl
@[simp] theorem State.setFault_arena (code : FaultCode) (word : CommandWord) : (s.setFault code word).arena = s.arena := rfl
@[simp] theorem State.setFault_ghost (code : FaultCode) (word : CommandWord) : (s.setFault code word).ghost = s.ghost := rfl
@[simp] theorem State.setFault_responses (code : FaultCode) (word : CommandWord) : (s.setFault code word).responses = s.responses := rfl
@[simp] theorem State.setFault_trace (code : FaultCode) (word : CommandWord) : (s.setFault code word).trace = s.trace := rfl
@[simp] theorem State.setFault_blocked (code : FaultCode) (word : CommandWord) : (s.setFault code word).blocked = s.blocked := rfl
@[simp] theorem State.setFault_port (code : FaultCode) (word : CommandWord) : (s.setFault code word).port = s.port := rfl
@[simp] theorem State.setFault_hostCursor (code : FaultCode) (word : CommandWord) : (s.setFault code word).hostCursor = s.hostCursor := rfl
@[simp] theorem State.setFault_stallCursor (code : FaultCode) (word : CommandWord) : (s.setFault code word).stallCursor = s.stallCursor := rfl
@[simp] theorem State.setFault_chipBytes (code : FaultCode) (word : CommandWord) : (s.setFault code word).chipBytes = s.chipBytes := rfl
@[simp] theorem State.setFault_drawn (code : FaultCode) (word : CommandWord) : (s.setFault code word).drawn = s.drawn := rfl
@[simp] theorem State.setFault_stalls (code : FaultCode) (word : CommandWord) : (s.setFault code word).stalls = s.stalls := rfl

/-! ## The arena's contents (20_memory.md R50) -/

@[simp] theorem State.setArena_radio (m : Memory) : (s.setArena m).radio = s.radio := rfl
@[simp] theorem State.setArena_vl (m : Memory) : (s.setArena m).vl = s.vl := rfl
@[simp] theorem State.setArena_ad (m : Memory) : (s.setArena m).ad = s.ad := rfl
@[simp] theorem State.setArena_aes (m : Memory) : (s.setArena m).aes = s.aes := rfl
@[simp] theorem State.setArena_pUser (m : Memory) : (s.setArena m).pUser = s.pUser := rfl
@[simp] theorem State.setArena_pc (m : Memory) : (s.setArena m).pc = s.pc := rfl
@[simp] theorem State.setArena_c (m : Memory) : (s.setArena m).c = s.c := rfl
@[simp] theorem State.setArena_n (m : Memory) : (s.setArena m).n = s.n := rfl
@[simp] theorem State.setArena_wIdx (m : Memory) : (s.setArena m).wIdx = s.wIdx := rfl
@[simp] theorem State.setArena_rIdx (m : Memory) : (s.setArena m).rIdx = s.rIdx := rfl
@[simp] theorem State.setArena_phase (m : Memory) : (s.setArena m).phase = s.phase := rfl
@[simp] theorem State.setArena_hp (m : Memory) : (s.setArena m).hp = s.hp := rfl
@[simp] theorem State.setArena_boost (m : Memory) : (s.setArena m).boost = s.boost := rfl
@[simp] theorem State.setArena_fault (m : Memory) : (s.setArena m).fault = s.fault := rfl
@[simp] theorem State.setArena_arena (m : Memory) : (s.setArena m).arena = m := rfl
@[simp] theorem State.setArena_ghost (m : Memory) : (s.setArena m).ghost = s.ghost := rfl
@[simp] theorem State.setArena_responses (m : Memory) : (s.setArena m).responses = s.responses := rfl
@[simp] theorem State.setArena_trace (m : Memory) : (s.setArena m).trace = s.trace := rfl
@[simp] theorem State.setArena_blocked (m : Memory) : (s.setArena m).blocked = s.blocked := rfl
@[simp] theorem State.setArena_port (m : Memory) : (s.setArena m).port = s.port := rfl
@[simp] theorem State.setArena_hostCursor (m : Memory) : (s.setArena m).hostCursor = s.hostCursor := rfl
@[simp] theorem State.setArena_stallCursor (m : Memory) : (s.setArena m).stallCursor = s.stallCursor := rfl
@[simp] theorem State.setArena_chipBytes (m : Memory) : (s.setArena m).chipBytes = s.chipBytes := rfl
@[simp] theorem State.setArena_drawn (m : Memory) : (s.setArena m).drawn = s.drawn := rfl
@[simp] theorem State.setArena_stalls (m : Memory) : (s.setArena m).stalls = s.stalls := rfl

/-! ## A stall (20_memory.md R57) -/

@[simp] theorem State.block_radio (op : Transaction) (rest : List Nat) : (s.block op rest).radio = s.radio := rfl
@[simp] theorem State.block_vl (op : Transaction) (rest : List Nat) : (s.block op rest).vl = s.vl := rfl
@[simp] theorem State.block_ad (op : Transaction) (rest : List Nat) : (s.block op rest).ad = s.ad := rfl
@[simp] theorem State.block_aes (op : Transaction) (rest : List Nat) : (s.block op rest).aes = s.aes := rfl
@[simp] theorem State.block_pUser (op : Transaction) (rest : List Nat) : (s.block op rest).pUser = s.pUser := rfl
@[simp] theorem State.block_pc (op : Transaction) (rest : List Nat) : (s.block op rest).pc = s.pc := rfl
@[simp] theorem State.block_c (op : Transaction) (rest : List Nat) : (s.block op rest).c = s.c := rfl
@[simp] theorem State.block_n (op : Transaction) (rest : List Nat) : (s.block op rest).n = s.n := rfl
@[simp] theorem State.block_wIdx (op : Transaction) (rest : List Nat) : (s.block op rest).wIdx = s.wIdx := rfl
@[simp] theorem State.block_rIdx (op : Transaction) (rest : List Nat) : (s.block op rest).rIdx = s.rIdx := rfl
@[simp] theorem State.block_phase (op : Transaction) (rest : List Nat) : (s.block op rest).phase = s.phase := rfl
@[simp] theorem State.block_hp (op : Transaction) (rest : List Nat) : (s.block op rest).hp = s.hp := rfl
@[simp] theorem State.block_boost (op : Transaction) (rest : List Nat) : (s.block op rest).boost = s.boost := rfl
@[simp] theorem State.block_fault (op : Transaction) (rest : List Nat) : (s.block op rest).fault = s.fault := rfl
@[simp] theorem State.block_arena (op : Transaction) (rest : List Nat) : (s.block op rest).arena = s.arena := rfl
@[simp] theorem State.block_ghost (op : Transaction) (rest : List Nat) : (s.block op rest).ghost = s.ghost := rfl
@[simp] theorem State.block_responses (op : Transaction) (rest : List Nat) : (s.block op rest).responses = s.responses := rfl
@[simp] theorem State.block_trace (op : Transaction) (rest : List Nat) : (s.block op rest).trace = s.trace := rfl
@[simp] theorem State.block_blocked (op : Transaction) (rest : List Nat) : (s.block op rest).blocked = some op := rfl
@[simp] theorem State.block_port (op : Transaction) (rest : List Nat) : (s.block op rest).port = s.port := rfl
@[simp] theorem State.block_hostCursor (op : Transaction) (rest : List Nat) : (s.block op rest).hostCursor = s.hostCursor := rfl
@[simp] theorem State.block_stallCursor (op : Transaction) (rest : List Nat) : (s.block op rest).stallCursor = (stallsToCome rest s.stallCursor).2 := rfl
@[simp] theorem State.block_chipBytes (op : Transaction) (rest : List Nat) : (s.block op rest).chipBytes = s.chipBytes := rfl
@[simp] theorem State.block_drawn (op : Transaction) (rest : List Nat) : (s.block op rest).drawn = s.drawn := rfl
@[simp] theorem State.block_stalls (op : Transaction) (rest : List Nat) : (s.block op rest).stalls = (stallsToCome rest s.stallCursor).1 := rfl

/-! ## A response placed (30_encoding.md R84) -/

@[simp] theorem State.respond_radio (v : List Byte) : (s.respond v).radio = s.radio := rfl
@[simp] theorem State.respond_vl (v : List Byte) : (s.respond v).vl = s.vl := rfl
@[simp] theorem State.respond_ad (v : List Byte) : (s.respond v).ad = s.ad := rfl
@[simp] theorem State.respond_aes (v : List Byte) : (s.respond v).aes = s.aes := rfl
@[simp] theorem State.respond_pUser (v : List Byte) : (s.respond v).pUser = s.pUser := rfl
@[simp] theorem State.respond_pc (v : List Byte) : (s.respond v).pc = s.pc := rfl
@[simp] theorem State.respond_c (v : List Byte) : (s.respond v).c = s.c := rfl
@[simp] theorem State.respond_n (v : List Byte) : (s.respond v).n = s.n := rfl
@[simp] theorem State.respond_wIdx (v : List Byte) : (s.respond v).wIdx = s.wIdx := rfl
@[simp] theorem State.respond_rIdx (v : List Byte) : (s.respond v).rIdx = s.rIdx := rfl
@[simp] theorem State.respond_phase (v : List Byte) : (s.respond v).phase = s.phase := rfl
@[simp] theorem State.respond_hp (v : List Byte) : (s.respond v).hp = s.hp := rfl
@[simp] theorem State.respond_boost (v : List Byte) : (s.respond v).boost = s.boost := rfl
@[simp] theorem State.respond_fault (v : List Byte) : (s.respond v).fault = s.fault := rfl
@[simp] theorem State.respond_arena (v : List Byte) : (s.respond v).arena = s.arena := rfl
@[simp] theorem State.respond_ghost (v : List Byte) : (s.respond v).ghost = s.ghost := rfl
@[simp] theorem State.respond_responses (v : List Byte) : (s.respond v).responses = s.responses ++ [v] := rfl
@[simp] theorem State.respond_trace (v : List Byte) : (s.respond v).trace = s.trace := rfl
@[simp] theorem State.respond_blocked (v : List Byte) : (s.respond v).blocked = s.blocked := rfl
@[simp] theorem State.respond_port (v : List Byte) : (s.respond v).port = s.port := rfl
@[simp] theorem State.respond_hostCursor (v : List Byte) : (s.respond v).hostCursor = s.hostCursor := rfl
@[simp] theorem State.respond_stallCursor (v : List Byte) : (s.respond v).stallCursor = s.stallCursor := rfl
@[simp] theorem State.respond_chipBytes (v : List Byte) : (s.respond v).chipBytes = s.chipBytes := rfl
@[simp] theorem State.respond_drawn (v : List Byte) : (s.respond v).drawn = s.drawn := rfl
@[simp] theorem State.respond_stalls (v : List Byte) : (s.respond v).stalls = s.stalls := rfl

/-! ## A transaction completed (20_memory.md R54) -/

@[simp] theorem State.completed_radio (op : Transaction) : (s.completed op).radio = s.radio := rfl
@[simp] theorem State.completed_vl (op : Transaction) : (s.completed op).vl = s.vl := rfl
@[simp] theorem State.completed_ad (op : Transaction) : (s.completed op).ad = s.ad := rfl
@[simp] theorem State.completed_aes (op : Transaction) : (s.completed op).aes = s.aes := rfl
@[simp] theorem State.completed_pUser (op : Transaction) : (s.completed op).pUser = s.pUser := rfl
@[simp] theorem State.completed_pc (op : Transaction) : (s.completed op).pc = s.pc := rfl
@[simp] theorem State.completed_c (op : Transaction) : (s.completed op).c = s.c := rfl
@[simp] theorem State.completed_n (op : Transaction) : (s.completed op).n = s.n := rfl
@[simp] theorem State.completed_wIdx (op : Transaction) : (s.completed op).wIdx = s.wIdx := rfl
@[simp] theorem State.completed_rIdx (op : Transaction) : (s.completed op).rIdx = s.rIdx := rfl
@[simp] theorem State.completed_phase (op : Transaction) : (s.completed op).phase = s.phase := rfl
@[simp] theorem State.completed_hp (op : Transaction) : (s.completed op).hp = s.hp := rfl
@[simp] theorem State.completed_boost (op : Transaction) : (s.completed op).boost = s.boost := rfl
@[simp] theorem State.completed_fault (op : Transaction) : (s.completed op).fault = s.fault := rfl
@[simp] theorem State.completed_arena (op : Transaction) : (s.completed op).arena = s.arena := rfl
@[simp] theorem State.completed_ghost (op : Transaction) : (s.completed op).ghost = s.ghost.after op := rfl
@[simp] theorem State.completed_responses (op : Transaction) : (s.completed op).responses = s.responses := rfl
@[simp] theorem State.completed_trace (op : Transaction) : (s.completed op).trace = s.trace ++ [op] := rfl
@[simp] theorem State.completed_blocked (op : Transaction) : (s.completed op).blocked = s.blocked := rfl
@[simp] theorem State.completed_port (op : Transaction) : (s.completed op).port = s.port := rfl
@[simp] theorem State.completed_hostCursor (op : Transaction) : (s.completed op).hostCursor = s.hostCursor := rfl
@[simp] theorem State.completed_stallCursor (op : Transaction) : (s.completed op).stallCursor = s.stallCursor := rfl
@[simp] theorem State.completed_chipBytes (op : Transaction) : (s.completed op).chipBytes = s.chipBytes := rfl
@[simp] theorem State.completed_drawn (op : Transaction) : (s.completed op).drawn = s.drawn := rfl
@[simp] theorem State.completed_stalls (op : Transaction) : (s.completed op).stalls = stallsAfter s.stalls := rfl

/-! ## Reset (70_reset_and_hazards.md R250) -/

@[simp] theorem State.applyReset_radio : (s.applyReset).radio = State.reset.radio := rfl
@[simp] theorem State.applyReset_vl : (s.applyReset).vl = State.reset.vl := rfl
@[simp] theorem State.applyReset_ad : (s.applyReset).ad = State.reset.ad := rfl
@[simp] theorem State.applyReset_aes : (s.applyReset).aes = State.reset.aes := rfl
@[simp] theorem State.applyReset_pUser : (s.applyReset).pUser = State.reset.pUser := rfl
@[simp] theorem State.applyReset_pc : (s.applyReset).pc = State.reset.pc := rfl
@[simp] theorem State.applyReset_c : (s.applyReset).c = State.reset.c := rfl
@[simp] theorem State.applyReset_n : (s.applyReset).n = State.reset.n := rfl
@[simp] theorem State.applyReset_wIdx : (s.applyReset).wIdx = State.reset.wIdx := rfl
@[simp] theorem State.applyReset_rIdx : (s.applyReset).rIdx = State.reset.rIdx := rfl
@[simp] theorem State.applyReset_phase : (s.applyReset).phase = State.reset.phase := rfl
@[simp] theorem State.applyReset_hp : (s.applyReset).hp = State.reset.hp := rfl
@[simp] theorem State.applyReset_boost : (s.applyReset).boost = State.reset.boost := rfl
@[simp] theorem State.applyReset_fault : (s.applyReset).fault = State.reset.fault := rfl
@[simp] theorem State.applyReset_arena : (s.applyReset).arena = State.reset.arena := rfl
@[simp] theorem State.applyReset_ghost : (s.applyReset).ghost = State.reset.ghost := rfl
@[simp] theorem State.applyReset_responses : (s.applyReset).responses = s.responses := rfl
@[simp] theorem State.applyReset_trace : (s.applyReset).trace = s.trace := rfl
@[simp] theorem State.applyReset_blocked : (s.applyReset).blocked = State.reset.blocked := rfl
@[simp] theorem State.applyReset_port : (s.applyReset).port = s.port := rfl
@[simp] theorem State.applyReset_hostCursor : (s.applyReset).hostCursor = s.hostCursor := rfl
@[simp] theorem State.applyReset_stallCursor : (s.applyReset).stallCursor = s.stallCursor := rfl
@[simp] theorem State.applyReset_chipBytes : (s.applyReset).chipBytes = s.chipBytes := rfl
@[simp] theorem State.applyReset_drawn : (s.applyReset).drawn = s.drawn := rfl
@[simp] theorem State.applyReset_stalls : (s.applyReset).stalls = s.stalls := rfl

/-! ### `State.abandonCommand` (70_reset_and_hazards.md R250) -/

variable (shown : List (List Byte))

@[simp] theorem State.abandonCommand_radio : (s.abandonCommand shown).radio = State.reset.radio := rfl
@[simp] theorem State.abandonCommand_vl : (s.abandonCommand shown).vl = State.reset.vl := rfl
@[simp] theorem State.abandonCommand_ad : (s.abandonCommand shown).ad = State.reset.ad := rfl
@[simp] theorem State.abandonCommand_aes : (s.abandonCommand shown).aes = State.reset.aes := rfl
@[simp] theorem State.abandonCommand_pUser : (s.abandonCommand shown).pUser = State.reset.pUser := rfl
@[simp] theorem State.abandonCommand_pc : (s.abandonCommand shown).pc = State.reset.pc := rfl
@[simp] theorem State.abandonCommand_c : (s.abandonCommand shown).c = State.reset.c := rfl
@[simp] theorem State.abandonCommand_n : (s.abandonCommand shown).n = State.reset.n := rfl
@[simp] theorem State.abandonCommand_wIdx : (s.abandonCommand shown).wIdx = State.reset.wIdx := rfl
@[simp] theorem State.abandonCommand_rIdx : (s.abandonCommand shown).rIdx = State.reset.rIdx := rfl
@[simp] theorem State.abandonCommand_phase : (s.abandonCommand shown).phase = State.reset.phase := rfl
@[simp] theorem State.abandonCommand_hp : (s.abandonCommand shown).hp = State.reset.hp := rfl
@[simp] theorem State.abandonCommand_boost : (s.abandonCommand shown).boost = State.reset.boost := rfl
@[simp] theorem State.abandonCommand_fault : (s.abandonCommand shown).fault = State.reset.fault := rfl
@[simp] theorem State.abandonCommand_arena : (s.abandonCommand shown).arena = State.reset.arena := rfl
@[simp] theorem State.abandonCommand_ghost : (s.abandonCommand shown).ghost = State.reset.ghost := rfl
@[simp] theorem State.abandonCommand_responses : (s.abandonCommand shown).responses = shown := rfl
@[simp] theorem State.abandonCommand_trace : (s.abandonCommand shown).trace = s.trace := rfl
@[simp] theorem State.abandonCommand_blocked : (s.abandonCommand shown).blocked = State.reset.blocked := rfl
@[simp] theorem State.abandonCommand_port : (s.abandonCommand shown).port = s.port := rfl
@[simp] theorem State.abandonCommand_hostCursor : (s.abandonCommand shown).hostCursor = s.hostCursor := rfl
@[simp] theorem State.abandonCommand_stallCursor : (s.abandonCommand shown).stallCursor = s.stallCursor := rfl
@[simp] theorem State.abandonCommand_chipBytes : (s.abandonCommand shown).chipBytes = s.chipBytes := rfl
@[simp] theorem State.abandonCommand_drawn : (s.abandonCommand shown).drawn = s.drawn := rfl
@[simp] theorem State.abandonCommand_stalls : (s.abandonCommand shown).stalls = s.stalls := rfl

/-! ## The event taken from the port (10_state.md R21) -/

@[simp] theorem State.withPort_radio (rest : List HostEvent) (cursor : Option Nat) :
    (s.withPort rest cursor).radio = s.radio := rfl
@[simp] theorem State.withPort_vl (rest : List HostEvent) (cursor : Option Nat) :
    (s.withPort rest cursor).vl = s.vl := rfl
@[simp] theorem State.withPort_ad (rest : List HostEvent) (cursor : Option Nat) :
    (s.withPort rest cursor).ad = s.ad := rfl
@[simp] theorem State.withPort_aes (rest : List HostEvent) (cursor : Option Nat) :
    (s.withPort rest cursor).aes = s.aes := rfl
@[simp] theorem State.withPort_pUser (rest : List HostEvent) (cursor : Option Nat) :
    (s.withPort rest cursor).pUser = s.pUser := rfl
@[simp] theorem State.withPort_pc (rest : List HostEvent) (cursor : Option Nat) :
    (s.withPort rest cursor).pc = s.pc := rfl
@[simp] theorem State.withPort_c (rest : List HostEvent) (cursor : Option Nat) :
    (s.withPort rest cursor).c = s.c := rfl
@[simp] theorem State.withPort_n (rest : List HostEvent) (cursor : Option Nat) :
    (s.withPort rest cursor).n = s.n := rfl
@[simp] theorem State.withPort_wIdx (rest : List HostEvent) (cursor : Option Nat) :
    (s.withPort rest cursor).wIdx = s.wIdx := rfl
@[simp] theorem State.withPort_rIdx (rest : List HostEvent) (cursor : Option Nat) :
    (s.withPort rest cursor).rIdx = s.rIdx := rfl
@[simp] theorem State.withPort_phase (rest : List HostEvent) (cursor : Option Nat) :
    (s.withPort rest cursor).phase = s.phase := rfl
@[simp] theorem State.withPort_hp (rest : List HostEvent) (cursor : Option Nat) :
    (s.withPort rest cursor).hp = s.hp := rfl
@[simp] theorem State.withPort_boost (rest : List HostEvent) (cursor : Option Nat) :
    (s.withPort rest cursor).boost = s.boost := rfl
@[simp] theorem State.withPort_fault (rest : List HostEvent) (cursor : Option Nat) :
    (s.withPort rest cursor).fault = s.fault := rfl
@[simp] theorem State.withPort_arena (rest : List HostEvent) (cursor : Option Nat) :
    (s.withPort rest cursor).arena = s.arena := rfl
@[simp] theorem State.withPort_ghost (rest : List HostEvent) (cursor : Option Nat) :
    (s.withPort rest cursor).ghost = s.ghost := rfl
@[simp] theorem State.withPort_responses (rest : List HostEvent) (cursor : Option Nat) :
    (s.withPort rest cursor).responses = s.responses := rfl
@[simp] theorem State.withPort_trace (rest : List HostEvent) (cursor : Option Nat) :
    (s.withPort rest cursor).trace = s.trace := rfl
@[simp] theorem State.withPort_blocked (rest : List HostEvent) (cursor : Option Nat) :
    (s.withPort rest cursor).blocked = s.blocked := rfl
@[simp] theorem State.withPort_port (rest : List HostEvent) (cursor : Option Nat) :
    (s.withPort rest cursor).port = rest := rfl
@[simp] theorem State.withPort_hostCursor (rest : List HostEvent) (cursor : Option Nat) :
    (s.withPort rest cursor).hostCursor = cursor := rfl
@[simp] theorem State.withPort_stallCursor (rest : List HostEvent) (cursor : Option Nat) :
    (s.withPort rest cursor).stallCursor = s.stallCursor := rfl
@[simp] theorem State.withPort_chipBytes (rest : List HostEvent) (cursor : Option Nat) :
    (s.withPort rest cursor).chipBytes = s.chipBytes := rfl
@[simp] theorem State.withPort_drawn (rest : List HostEvent) (cursor : Option Nat) :
    (s.withPort rest cursor).drawn = s.drawn := rfl
@[simp] theorem State.withPort_stalls (rest : List HostEvent) (cursor : Option Nat) :
    (s.withPort rest cursor).stalls = s.stalls := rfl

/-! ## The push (42_ring_buffer.md R161) -/

@[simp] theorem push_radio : (push s).radio = s.radio := rfl
@[simp] theorem push_vl : (push s).vl = s.vl := rfl
@[simp] theorem push_ad : (push s).ad = s.ad := rfl
@[simp] theorem push_aes : (push s).aes = s.aes := rfl
@[simp] theorem push_pUser : (push s).pUser = s.pUser := rfl
@[simp] theorem push_pc : (push s).pc = s.pc := rfl
@[simp] theorem push_c : (push s).c = s.c := rfl
@[simp] theorem push_n : (push s).n = s.n := rfl
@[simp] theorem push_wIdx : (push s).wIdx = nextIndex s.n s.wIdx := rfl
@[simp] theorem push_rIdx : (push s).rIdx = s.rIdx := rfl
@[simp] theorem push_phase : (push s).phase = s.phase := rfl
@[simp] theorem push_hp : (push s).hp = s.hp := rfl
@[simp] theorem push_boost : (push s).boost = s.boost := rfl
@[simp] theorem push_fault : (push s).fault = s.fault := rfl
@[simp] theorem push_arena : (push s).arena = s.arena := rfl
@[simp] theorem push_ghost : (push s).ghost = s.ghost := rfl
@[simp] theorem push_responses : (push s).responses = s.responses := rfl
@[simp] theorem push_trace : (push s).trace = s.trace := rfl
@[simp] theorem push_blocked : (push s).blocked = s.blocked := rfl
@[simp] theorem push_port : (push s).port = s.port := rfl
@[simp] theorem push_hostCursor : (push s).hostCursor = s.hostCursor := rfl
@[simp] theorem push_stallCursor : (push s).stallCursor = s.stallCursor := rfl
@[simp] theorem push_chipBytes : (push s).chipBytes = s.chipBytes := rfl
@[simp] theorem push_drawn : (push s).drawn = s.drawn := rfl
@[simp] theorem push_stalls : (push s).stalls = s.stalls := rfl

/-! ## The slot allocation (40_configuration.md R116) -/

@[simp] theorem allocateSlots_radio (p cap size : Nat) : (allocateSlots p cap size s).radio = s.radio := rfl
@[simp] theorem allocateSlots_vl (p cap size : Nat) : (allocateSlots p cap size s).vl = s.vl := rfl
@[simp] theorem allocateSlots_ad (p cap size : Nat) : (allocateSlots p cap size s).ad = s.ad := rfl
@[simp] theorem allocateSlots_aes (p cap size : Nat) : (allocateSlots p cap size s).aes = s.aes := rfl
@[simp] theorem allocateSlots_pUser (p cap size : Nat) : (allocateSlots p cap size s).pUser = BitVec.ofNat 7 p := rfl
@[simp] theorem allocateSlots_pc (p cap size : Nat) : (allocateSlots p cap size s).pc = BitVec.ofNat 7 cap := rfl
@[simp] theorem allocateSlots_c (p cap size : Nat) : (allocateSlots p cap size s).c = BitVec.ofNat 7 size := rfl
@[simp] theorem allocateSlots_n (p cap size : Nat) : (allocateSlots p cap size s).n = s.n := rfl
@[simp] theorem allocateSlots_wIdx (p cap size : Nat) : (allocateSlots p cap size s).wIdx = 0#8 := rfl
@[simp] theorem allocateSlots_rIdx (p cap size : Nat) : (allocateSlots p cap size s).rIdx = 0#8 := rfl
@[simp] theorem allocateSlots_phase (p cap size : Nat) : (allocateSlots p cap size s).phase = .ready := rfl
@[simp] theorem allocateSlots_hp (p cap size : Nat) : (allocateSlots p cap size s).hp = s.hp := rfl
@[simp] theorem allocateSlots_boost (p cap size : Nat) : (allocateSlots p cap size s).boost = s.boost := rfl
@[simp] theorem allocateSlots_fault (p cap size : Nat) : (allocateSlots p cap size s).fault = s.fault := rfl
@[simp] theorem allocateSlots_arena (p cap size : Nat) : (allocateSlots p cap size s).arena = s.arena := rfl
@[simp] theorem allocateSlots_ghost (p cap size : Nat) : (allocateSlots p cap size s).ghost = s.ghost := rfl
@[simp] theorem allocateSlots_responses (p cap size : Nat) : (allocateSlots p cap size s).responses = s.responses := rfl
@[simp] theorem allocateSlots_trace (p cap size : Nat) : (allocateSlots p cap size s).trace = s.trace := rfl
@[simp] theorem allocateSlots_blocked (p cap size : Nat) : (allocateSlots p cap size s).blocked = s.blocked := rfl
@[simp] theorem allocateSlots_port (p cap size : Nat) : (allocateSlots p cap size s).port = s.port := rfl
@[simp] theorem allocateSlots_hostCursor (p cap size : Nat) : (allocateSlots p cap size s).hostCursor = s.hostCursor := rfl
@[simp] theorem allocateSlots_stallCursor (p cap size : Nat) : (allocateSlots p cap size s).stallCursor = s.stallCursor := rfl
@[simp] theorem allocateSlots_chipBytes (p cap size : Nat) : (allocateSlots p cap size s).chipBytes = s.chipBytes := rfl
@[simp] theorem allocateSlots_drawn (p cap size : Nat) : (allocateSlots p cap size s).drawn = s.drawn := rfl
@[simp] theorem allocateSlots_stalls (p cap size : Nat) : (allocateSlots p cap size s).stalls = s.stalls := rfl

/-! ## Bytes taken from the chip (20_memory.md R56) -/

@[simp] theorem State.dropDraw_radio : s.dropDraw.radio = s.radio := by
  unfold State.dropDraw; split <;> rfl

@[simp] theorem State.dropDraw_vl : s.dropDraw.vl = s.vl := by
  unfold State.dropDraw; split <;> rfl

@[simp] theorem State.dropDraw_ad : s.dropDraw.ad = s.ad := by
  unfold State.dropDraw; split <;> rfl

@[simp] theorem State.dropDraw_aes : s.dropDraw.aes = s.aes := by
  unfold State.dropDraw; split <;> rfl

@[simp] theorem State.dropDraw_pUser : s.dropDraw.pUser = s.pUser := by
  unfold State.dropDraw; split <;> rfl

@[simp] theorem State.dropDraw_pc : s.dropDraw.pc = s.pc := by
  unfold State.dropDraw; split <;> rfl

@[simp] theorem State.dropDraw_c : s.dropDraw.c = s.c := by
  unfold State.dropDraw; split <;> rfl

@[simp] theorem State.dropDraw_n : s.dropDraw.n = s.n := by
  unfold State.dropDraw; split <;> rfl

@[simp] theorem State.dropDraw_wIdx : s.dropDraw.wIdx = s.wIdx := by
  unfold State.dropDraw; split <;> rfl

@[simp] theorem State.dropDraw_rIdx : s.dropDraw.rIdx = s.rIdx := by
  unfold State.dropDraw; split <;> rfl

@[simp] theorem State.dropDraw_phase : s.dropDraw.phase = s.phase := by
  unfold State.dropDraw; split <;> rfl

@[simp] theorem State.dropDraw_hp : s.dropDraw.hp = s.hp := by
  unfold State.dropDraw; split <;> rfl

@[simp] theorem State.dropDraw_boost : s.dropDraw.boost = s.boost := by
  unfold State.dropDraw; split <;> rfl

@[simp] theorem State.dropDraw_fault : s.dropDraw.fault = s.fault := by
  unfold State.dropDraw; split <;> rfl

@[simp] theorem State.dropDraw_arena : s.dropDraw.arena = s.arena := by
  unfold State.dropDraw; split <;> rfl

@[simp] theorem State.dropDraw_ghost : s.dropDraw.ghost = s.ghost := by
  unfold State.dropDraw; split <;> rfl

@[simp] theorem State.dropDraw_responses : s.dropDraw.responses = s.responses := by
  unfold State.dropDraw; split <;> rfl

@[simp] theorem State.dropDraw_trace : s.dropDraw.trace = s.trace := by
  unfold State.dropDraw; split <;> rfl

@[simp] theorem State.dropDraw_blocked : s.dropDraw.blocked = s.blocked := by
  unfold State.dropDraw; split <;> rfl

@[simp] theorem State.dropDraw_port : s.dropDraw.port = s.port := by
  unfold State.dropDraw; split <;> rfl

@[simp] theorem State.dropDraw_hostCursor : s.dropDraw.hostCursor = s.hostCursor := by
  unfold State.dropDraw; split <;> rfl

@[simp] theorem State.dropDraw_stallCursor : s.dropDraw.stallCursor = s.stallCursor := by
  unfold State.dropDraw; split <;> rfl

@[simp] theorem State.dropDraw_stalls : s.dropDraw.stalls = s.stalls := by
  unfold State.dropDraw; split <;> rfl

@[simp] theorem State.dropDraws_radio (m : Nat) : (s.dropDraws m).radio = s.radio := by
  induction m generalizing s with
  | zero => rfl
  | succ m ih => rw [State.dropDraws, ih, State.dropDraw_radio]

@[simp] theorem State.dropDraws_vl (m : Nat) : (s.dropDraws m).vl = s.vl := by
  induction m generalizing s with
  | zero => rfl
  | succ m ih => rw [State.dropDraws, ih, State.dropDraw_vl]

@[simp] theorem State.dropDraws_ad (m : Nat) : (s.dropDraws m).ad = s.ad := by
  induction m generalizing s with
  | zero => rfl
  | succ m ih => rw [State.dropDraws, ih, State.dropDraw_ad]

@[simp] theorem State.dropDraws_aes (m : Nat) : (s.dropDraws m).aes = s.aes := by
  induction m generalizing s with
  | zero => rfl
  | succ m ih => rw [State.dropDraws, ih, State.dropDraw_aes]

@[simp] theorem State.dropDraws_pUser (m : Nat) : (s.dropDraws m).pUser = s.pUser := by
  induction m generalizing s with
  | zero => rfl
  | succ m ih => rw [State.dropDraws, ih, State.dropDraw_pUser]

@[simp] theorem State.dropDraws_pc (m : Nat) : (s.dropDraws m).pc = s.pc := by
  induction m generalizing s with
  | zero => rfl
  | succ m ih => rw [State.dropDraws, ih, State.dropDraw_pc]

@[simp] theorem State.dropDraws_c (m : Nat) : (s.dropDraws m).c = s.c := by
  induction m generalizing s with
  | zero => rfl
  | succ m ih => rw [State.dropDraws, ih, State.dropDraw_c]

@[simp] theorem State.dropDraws_n (m : Nat) : (s.dropDraws m).n = s.n := by
  induction m generalizing s with
  | zero => rfl
  | succ m ih => rw [State.dropDraws, ih, State.dropDraw_n]

@[simp] theorem State.dropDraws_wIdx (m : Nat) : (s.dropDraws m).wIdx = s.wIdx := by
  induction m generalizing s with
  | zero => rfl
  | succ m ih => rw [State.dropDraws, ih, State.dropDraw_wIdx]

@[simp] theorem State.dropDraws_rIdx (m : Nat) : (s.dropDraws m).rIdx = s.rIdx := by
  induction m generalizing s with
  | zero => rfl
  | succ m ih => rw [State.dropDraws, ih, State.dropDraw_rIdx]

@[simp] theorem State.dropDraws_phase (m : Nat) : (s.dropDraws m).phase = s.phase := by
  induction m generalizing s with
  | zero => rfl
  | succ m ih => rw [State.dropDraws, ih, State.dropDraw_phase]

@[simp] theorem State.dropDraws_hp (m : Nat) : (s.dropDraws m).hp = s.hp := by
  induction m generalizing s with
  | zero => rfl
  | succ m ih => rw [State.dropDraws, ih, State.dropDraw_hp]

@[simp] theorem State.dropDraws_boost (m : Nat) : (s.dropDraws m).boost = s.boost := by
  induction m generalizing s with
  | zero => rfl
  | succ m ih => rw [State.dropDraws, ih, State.dropDraw_boost]

@[simp] theorem State.dropDraws_fault (m : Nat) : (s.dropDraws m).fault = s.fault := by
  induction m generalizing s with
  | zero => rfl
  | succ m ih => rw [State.dropDraws, ih, State.dropDraw_fault]

@[simp] theorem State.dropDraws_arena (m : Nat) : (s.dropDraws m).arena = s.arena := by
  induction m generalizing s with
  | zero => rfl
  | succ m ih => rw [State.dropDraws, ih, State.dropDraw_arena]

@[simp] theorem State.dropDraws_ghost (m : Nat) : (s.dropDraws m).ghost = s.ghost := by
  induction m generalizing s with
  | zero => rfl
  | succ m ih => rw [State.dropDraws, ih, State.dropDraw_ghost]

@[simp] theorem State.dropDraws_responses (m : Nat) : (s.dropDraws m).responses = s.responses := by
  induction m generalizing s with
  | zero => rfl
  | succ m ih => rw [State.dropDraws, ih, State.dropDraw_responses]

@[simp] theorem State.dropDraws_trace (m : Nat) : (s.dropDraws m).trace = s.trace := by
  induction m generalizing s with
  | zero => rfl
  | succ m ih => rw [State.dropDraws, ih, State.dropDraw_trace]

@[simp] theorem State.dropDraws_blocked (m : Nat) : (s.dropDraws m).blocked = s.blocked := by
  induction m generalizing s with
  | zero => rfl
  | succ m ih => rw [State.dropDraws, ih, State.dropDraw_blocked]

@[simp] theorem State.dropDraws_port (m : Nat) : (s.dropDraws m).port = s.port := by
  induction m generalizing s with
  | zero => rfl
  | succ m ih => rw [State.dropDraws, ih, State.dropDraw_port]

@[simp] theorem State.dropDraws_hostCursor (m : Nat) : (s.dropDraws m).hostCursor = s.hostCursor := by
  induction m generalizing s with
  | zero => rfl
  | succ m ih => rw [State.dropDraws, ih, State.dropDraw_hostCursor]

@[simp] theorem State.dropDraws_stallCursor (m : Nat) : (s.dropDraws m).stallCursor = s.stallCursor := by
  induction m generalizing s with
  | zero => rfl
  | succ m ih => rw [State.dropDraws, ih, State.dropDraw_stallCursor]

@[simp] theorem State.dropDraws_stalls (m : Nat) : (s.dropDraws m).stalls = s.stalls := by
  induction m generalizing s with
  | zero => rfl
  | succ m ih => rw [State.dropDraws, ih, State.dropDraw_stalls]

/-! ## Several transactions completed (20_memory.md R61) -/

@[simp] theorem State.completedAll_radio (ops : List Transaction) :
    (s.completedAll ops).radio = s.radio := by
  induction ops generalizing s with
  | nil => exact rfl
  | cons op ops ih => rw [State.completedAll, ih, State.completed_radio]

@[simp] theorem State.completedAll_vl (ops : List Transaction) :
    (s.completedAll ops).vl = s.vl := by
  induction ops generalizing s with
  | nil => exact rfl
  | cons op ops ih => rw [State.completedAll, ih, State.completed_vl]

@[simp] theorem State.completedAll_ad (ops : List Transaction) :
    (s.completedAll ops).ad = s.ad := by
  induction ops generalizing s with
  | nil => exact rfl
  | cons op ops ih => rw [State.completedAll, ih, State.completed_ad]

@[simp] theorem State.completedAll_aes (ops : List Transaction) :
    (s.completedAll ops).aes = s.aes := by
  induction ops generalizing s with
  | nil => exact rfl
  | cons op ops ih => rw [State.completedAll, ih, State.completed_aes]

@[simp] theorem State.completedAll_pUser (ops : List Transaction) :
    (s.completedAll ops).pUser = s.pUser := by
  induction ops generalizing s with
  | nil => exact rfl
  | cons op ops ih => rw [State.completedAll, ih, State.completed_pUser]

@[simp] theorem State.completedAll_pc (ops : List Transaction) :
    (s.completedAll ops).pc = s.pc := by
  induction ops generalizing s with
  | nil => exact rfl
  | cons op ops ih => rw [State.completedAll, ih, State.completed_pc]

@[simp] theorem State.completedAll_c (ops : List Transaction) :
    (s.completedAll ops).c = s.c := by
  induction ops generalizing s with
  | nil => exact rfl
  | cons op ops ih => rw [State.completedAll, ih, State.completed_c]

@[simp] theorem State.completedAll_n (ops : List Transaction) :
    (s.completedAll ops).n = s.n := by
  induction ops generalizing s with
  | nil => exact rfl
  | cons op ops ih => rw [State.completedAll, ih, State.completed_n]

@[simp] theorem State.completedAll_wIdx (ops : List Transaction) :
    (s.completedAll ops).wIdx = s.wIdx := by
  induction ops generalizing s with
  | nil => exact rfl
  | cons op ops ih => rw [State.completedAll, ih, State.completed_wIdx]

@[simp] theorem State.completedAll_rIdx (ops : List Transaction) :
    (s.completedAll ops).rIdx = s.rIdx := by
  induction ops generalizing s with
  | nil => exact rfl
  | cons op ops ih => rw [State.completedAll, ih, State.completed_rIdx]

@[simp] theorem State.completedAll_phase (ops : List Transaction) :
    (s.completedAll ops).phase = s.phase := by
  induction ops generalizing s with
  | nil => exact rfl
  | cons op ops ih => rw [State.completedAll, ih, State.completed_phase]

@[simp] theorem State.completedAll_hp (ops : List Transaction) :
    (s.completedAll ops).hp = s.hp := by
  induction ops generalizing s with
  | nil => exact rfl
  | cons op ops ih => rw [State.completedAll, ih, State.completed_hp]

@[simp] theorem State.completedAll_boost (ops : List Transaction) :
    (s.completedAll ops).boost = s.boost := by
  induction ops generalizing s with
  | nil => exact rfl
  | cons op ops ih => rw [State.completedAll, ih, State.completed_boost]

@[simp] theorem State.completedAll_fault (ops : List Transaction) :
    (s.completedAll ops).fault = s.fault := by
  induction ops generalizing s with
  | nil => exact rfl
  | cons op ops ih => rw [State.completedAll, ih, State.completed_fault]

@[simp] theorem State.completedAll_arena (ops : List Transaction) :
    (s.completedAll ops).arena = s.arena := by
  induction ops generalizing s with
  | nil => exact rfl
  | cons op ops ih => rw [State.completedAll, ih, State.completed_arena]

@[simp] theorem State.completedAll_ghost (ops : List Transaction) :
    (s.completedAll ops).ghost = ops.foldl Ghost.after s.ghost := by
  induction ops generalizing s with
  | nil => exact rfl
  | cons op ops ih => rw [State.completedAll, ih, State.completed_ghost]; rfl

@[simp] theorem State.completedAll_responses (ops : List Transaction) :
    (s.completedAll ops).responses = s.responses := by
  induction ops generalizing s with
  | nil => exact rfl
  | cons op ops ih => rw [State.completedAll, ih, State.completed_responses]

@[simp] theorem State.completedAll_trace (ops : List Transaction) :
    (s.completedAll ops).trace = s.trace ++ ops := by
  induction ops generalizing s with
  | nil => exact (List.append_nil _).symm
  | cons op ops ih => rw [State.completedAll, ih, State.completed_trace, List.append_assoc]; rfl

@[simp] theorem State.completedAll_blocked (ops : List Transaction) :
    (s.completedAll ops).blocked = s.blocked := by
  induction ops generalizing s with
  | nil => exact rfl
  | cons op ops ih => rw [State.completedAll, ih, State.completed_blocked]

@[simp] theorem State.completedAll_port (ops : List Transaction) :
    (s.completedAll ops).port = s.port := by
  induction ops generalizing s with
  | nil => exact rfl
  | cons op ops ih => rw [State.completedAll, ih, State.completed_port]

@[simp] theorem State.completedAll_hostCursor (ops : List Transaction) :
    (s.completedAll ops).hostCursor = s.hostCursor := by
  induction ops generalizing s with
  | nil => exact rfl
  | cons op ops ih => rw [State.completedAll, ih, State.completed_hostCursor]

@[simp] theorem State.completedAll_stallCursor (ops : List Transaction) :
    (s.completedAll ops).stallCursor = s.stallCursor := by
  induction ops generalizing s with
  | nil => exact rfl
  | cons op ops ih => rw [State.completedAll, ih, State.completed_stallCursor]

@[simp] theorem State.completedAll_chipBytes (ops : List Transaction) :
    (s.completedAll ops).chipBytes = s.chipBytes := by
  induction ops generalizing s with
  | nil => exact rfl
  | cons op ops ih => rw [State.completedAll, ih, State.completed_chipBytes]

@[simp] theorem State.completedAll_drawn (ops : List Transaction) :
    (s.completedAll ops).drawn = s.drawn := by
  induction ops generalizing s with
  | nil => exact rfl
  | cons op ops ih => rw [State.completedAll, ih, State.completed_drawn]

end Sys2Proof.Machine
end

