-- ==== Sys2Proof/Laws/Ops.lean ====
section
/-! SUPPORT. What each shared operation can do, said once: when a run of steps is done, stalled or stopped, and with
which state. The proofs about commands cite these lemmas instead of unfolding the operations. -/

namespace Sys2Proof.Machine

/-! ## Runs (20_memory.md R57, R61) -/

@[simp] theorem Run.andThen_done {α β : Type} (a : α) (s : State) (f : α → State → Run β) :
    (Run.done a s).andThen f = f a s := rfl

@[simp] theorem Run.andThen_stalled {α β : Type} (s : State) (f : α → State → Run β) :
    (Run.stalled s : Run α).andThen f = .stalled s := rfl

@[simp] theorem Run.andThen_faulted {α β : Type} (e : Fault) (f : α → State → Run β) :
    (Run.faulted e : Run α).andThen f = .faulted e := rfl

theorem Run.andThen_assoc {α β γ : Type} (r : Run α) (f : α → State → Run β) (g : β → State → Run γ) :
    (r.andThen f).andThen g = r.andThen fun a s => (f a s).andThen g := by
  cases r <;> rfl

/-- A run is done after its next steps exactly if both parts are done. -/
theorem Run.andThen_eq_done {α β : Type} {r : Run α} {f : α → State → Run β} {b : β} {t : State} :
    r.andThen f = .done b t ↔ ∃ a s, r = .done a s ∧ f a s = .done b t := by
  cases r <;> simp [Run.andThen]

/-- A run stalls either in its first part or in its next steps. -/
theorem Run.andThen_eq_stalled {α β : Type} {r : Run α} {f : α → State → Run β} {t : State} :
    r.andThen f = .stalled t ↔ r = .stalled t ∨ ∃ a s, r = .done a s ∧ f a s = .stalled t := by
  cases r <;> simp [Run.andThen]

@[simp] theorem finish_done (v : List Byte) (s : State) : finish (.done v s) = .next (s.respond v) := rfl
@[simp] theorem finish_stalled (s : State) : finish (.stalled s) = .next s := rfl
@[simp] theorem finish_faulted (f : Fault) : finish (.faulted f) = .fault f := rfl

/-- A command that answers a next state has placed its response, or has stalled (30_encoding.md R84). -/
theorem finish_eq_next {r : Run (List Byte)} {t : State} :
    finish r = .next t ↔ (∃ v s, r = .done v s ∧ t = s.respond v) ∨ r = .stalled t := by
  cases r <;> simp [finish, eq_comm]

/-- `raise Fault(code)` always answers a next state, with FAULT alone changed (60_exceptions.md R221). -/
theorem raiseFault_eq_next {code : FaultCode} {word : CommandWord} {s t : State} :
    raiseFault code word s = .next t ↔ t = s.setFault code word := by
  simp [raiseFault, eq_comm]

/-- An abandoned command answers a next state exactly if the command does, and that state is the reset one
(70_reset_and_hazards.md R250). -/
theorem abandon_eq_next {shown : List (List Byte)} {o : Host.Outcome State Fault Refusal} {t : State} :
    abandon shown o = .next t ↔ ∃ u, o = .next u ∧ t = u.abandonCommand shown := by
  cases o <;> simp [abandon, eq_comm]

/-! ## The command port (10_state.md R21) -/

/-- The event the host presents next is the first listed one, or the next one of a host without end. -/
theorem nextEvent_eq_some {s : State} {event : HostEvent} {rest : List HostEvent} {cursor : Option Nat} :
    s.nextEvent = some (event, rest, cursor) ↔ (s.port = event :: rest ∧ s.hostCursor = cursor) ∨
      (s.port = [] ∧ rest = [] ∧ ∃ k, s.hostCursor = some k ∧ event = Config.hostEvent k ∧ cursor = some (k + 1)) := by
  unfold State.nextEvent
  cases s.port <;> cases s.hostCursor <;> simp [eq_comm, and_assoc, and_left_comm]

/-- The host presents nothing exactly when nothing is listed and nothing follows. -/
theorem nextEvent_eq_none {s : State} : s.nextEvent = none ↔ s.port = [] ∧ s.hostCursor = none := by
  unfold State.nextEvent
  cases s.port <;> cases s.hostCursor <;> simp

/-! ## Transactions (20_memory.md R54, R57) -/

@[simp] theorem transactionsComplete_zero (s : State) : transactionsComplete 0 s := by
  simp [transactionsComplete]

theorem transactionsComplete_of_no_stalls {s : State} (h : s.stalls = []) (m : Nat) : transactionsComplete m s := by
  simp [transactionsComplete, h]

/-- Fewer transactions complete too. -/
theorem transactionsComplete_mono {m m' : Nat} {s : State} (h : transactionsComplete m s) (hm : m' ≤ m) :
    transactionsComplete m' s := fun k hk => Nat.le_trans hm (h k hk)

/-- The premise depends on the stalls to come alone. -/
theorem transactionsComplete_congr {m : Nat} {s s' : State} (hs : s'.stalls = s.stalls)
    (h : transactionsComplete m s) : transactionsComplete m s' := by
  simpa [transactionsComplete, hs] using h

/-- Once one of m + 1 transactions has completed, m more complete. -/
theorem transactionsComplete_completed {m : Nat} {s : State} {op : Transaction}
    (h : transactionsComplete (m + 1) s) : transactionsComplete m (s.completed op) := by
  intro k hk
  cases hs : s.stalls with
  | nil => simp [hs, stallsAfter] at hk
  | cons j rest =>
    have := h j (by simp [hs])
    simp [hs, stallsAfter] at hk
    omega

/-- A transaction that completes: its trace entry and its ghost update, and nothing else. -/
theorem issue_done {m : Nat} {op : Transaction} {s : State} (h : transactionsComplete (m + 1) s) :
    issue op s = .done () (s.completed op) := by
  unfold issue
  split
  · rename_i rest hs
    have := h 0 (by simp [hs])
    omega
  · rfl

/-- Everything `issue` can do: complete, or block the CORE in the transaction. -/
theorem issue_cases (op : Transaction) (s : State) :
    issue op s = .done () (s.completed op) ∨
      ∃ rest, s.stalls = 0 :: rest ∧ issue op s = .stalled (s.block op rest) := by
  unfold issue
  split
  · rename_i rest hs; exact .inr ⟨rest, hs, rfl⟩
  · exact .inl rfl

/-- Several transactions that complete. -/
theorem issueAll_done {ops : List Transaction} {s : State} (h : transactionsComplete ops.length s) :
    issueAll ops s = .done () (s.completedAll ops) := by
  induction ops generalizing s with
  | nil => rfl
  | cons op ops ih =>
    rw [issueAll, issue_done h, Run.andThen_done, ih (transactionsComplete_completed h), State.completedAll]

/-- Where the next stall falls on one of the transactions, the ones before it complete and the CORE is blocked in it. -/
theorem issueAll_stalled {ops : List Transaction} {s : State} {j : Nat} {rest : List Nat} (hj : j < ops.length)
    (hs : s.stalls = j :: rest) : issueAll ops s = .stalled ((s.completedAll (ops.take j)).block ops[j] rest) := by
  induction ops generalizing s j with
  | nil => simp at hj
  | cons op ops ih =>
    cases j with
    | zero => simp [issueAll, issue, hs, State.completedAll]
    | succ j =>
      have hi : issue op s = .done () (s.completed op) := by simp [issue, hs]
      rw [issueAll, hi, Run.andThen_done, ih (by simpa using hj) (by simp [hs, stallsAfter])]
      rfl

/-- Everything `issueAll` can do: complete them all, or complete some and block the CORE in the next one. -/
theorem issueAll_cases (ops : List Transaction) (s : State) :
    issueAll ops s = .done () (s.completedAll ops) ∨
      ∃ before op after rest, ops = before ++ op :: after ∧
        issueAll ops s = .stalled ((s.completedAll before).block op rest) := by
  induction ops generalizing s with
  | nil => exact .inl rfl
  | cons op ops ih =>
    rw [issueAll]
    obtain h | ⟨rest, -, h⟩ := issue_cases op s
    · rw [h, Run.andThen_done]
      obtain h' | ⟨before, op', after, rest, rfl, h'⟩ := ih (s.completed op)
      · exact .inl (by rw [h', State.completedAll])
      · exact .inr ⟨op :: before, op', after, rest, rfl, by rw [h', State.completedAll]⟩
    · exact .inr ⟨[], op, ops, rest, rfl, by rw [h, Run.andThen_stalled, State.completedAll]⟩

/-- Completing two lists of transactions is completing their concatenation. -/
theorem State.completedAll_append (s : State) (ops ops' : List Transaction) :
    s.completedAll (ops ++ ops') = (s.completedAll ops).completedAll ops' := by
  induction ops generalizing s with
  | nil => rfl
  | cons op ops ih => simp only [List.cons_append, State.completedAll, ih]

/-! ## Draws (20_memory.md R56) -/

/-- A FIFO read of n bytes gives exactly n bytes (20_memory.md R56). -/
@[simp] theorem State.draws_length (m : Nat) (s : State) : (s.draws m).length = m := by
  induction m generalizing s with
  | zero => rfl
  | succ m ih => simp [State.draws, ih]

theorem State.nextDraw_cons {s : State} {b : Byte} {bs : List Byte} (h : s.chipBytes = b :: bs) : s.nextDraw = b := by
  simp [State.nextDraw, h]

theorem State.dropDraw_cons {s : State} {b : Byte} {bs : List Byte} (h : s.chipBytes = b :: bs) :
    s.dropDraw = { s with chipBytes := bs } := by
  simp [State.dropDraw, h]

/-- The bytes the state lists are the ones drawn, in order (20_memory.md R55). -/
theorem State.draws_of_listed {bs rest : List Byte} {s : State} (h : s.chipBytes = bs ++ rest) :
    s.draws bs.length = bs ∧ s.dropDraws bs.length = { s with chipBytes := rest } := by
  induction bs generalizing s with
  | nil => simp only [List.nil_append] at h; subst h; exact ⟨rfl, rfl⟩
  | cons b bs ih =>
    have hd := State.dropDraw_cons (bs := bs ++ rest) (b := b) (by simpa using h)
    have hn := State.nextDraw_cons (bs := bs ++ rest) (b := b) (by simpa using h)
    have := ih (s := s.dropDraw) (by rw [hd])
    simp only [List.length_cons, State.draws, State.dropDraws, this.1, this.2, hn]
    exact ⟨trivial, by rw [hd]⟩

/-- Draws depend on the chip's inputs alone. -/
theorem State.nextDraw_congr {s s' : State} (hb : s'.chipBytes = s.chipBytes) (hd : s'.drawn = s.drawn) :
    s'.nextDraw = s.nextDraw := by
  simp [State.nextDraw, hb, hd]

theorem State.dropDraw_inputs {s s' : State} (hb : s'.chipBytes = s.chipBytes) (hd : s'.drawn = s.drawn) :
    s'.dropDraw.chipBytes = s.dropDraw.chipBytes ∧ s'.dropDraw.drawn = s.dropDraw.drawn := by
  simp only [State.dropDraw, hb]
  cases s.chipBytes <;> simp [hd]

theorem State.draws_congr {s s' : State} (hb : s'.chipBytes = s.chipBytes) (hd : s'.drawn = s.drawn) (m : Nat) :
    s'.draws m = s.draws m := by
  induction m generalizing s s' with
  | zero => rfl
  | succ m ih =>
    have h := State.dropDraw_inputs hb hd
    rw [State.draws, State.draws, ih h.1 h.2, State.nextDraw_congr hb hd]

theorem State.dropDraws_inputs {s s' : State} (hb : s'.chipBytes = s.chipBytes) (hd : s'.drawn = s.drawn) (m : Nat) :
    (s'.dropDraws m).chipBytes = (s.dropDraws m).chipBytes ∧ (s'.dropDraws m).drawn = (s.dropDraws m).drawn := by
  induction m generalizing s s' with
  | zero => exact ⟨hb, hd⟩
  | succ m ih => exact ih (State.dropDraw_inputs hb hd).1 (State.dropDraw_inputs hb hd).2

/-- A transaction that returns one byte and completes. -/
theorem issueForByte_done {m : Nat} {op : Transaction} {s : State} (h : transactionsComplete (m + 1) s) :
    issueForByte op s = .done s.nextDraw (s.completed op).dropDraw := by
  rw [issueForByte, issue_done h, Run.andThen_done]
  rfl

/-- A FIFO read that completes. -/
theorem readFifo_done {m n : Nat} {s : State} (h : transactionsComplete (m + 1) s) :
    readFifo n s = .done (s.draws n) ((s.completed (.fifoRead n)).dropDraws n) := by
  rw [readFifo, issue_done h, Run.andThen_done, State.draws_congr (s := s) (s' := s.completed (.fifoRead n)) rfl rfl]

/-- Everything a transaction that returns one byte can do. -/
theorem issueForByte_cases (op : Transaction) (s : State) :
    issueForByte op s = .done s.nextDraw (s.completed op).dropDraw ∨
      ∃ rest, issueForByte op s = .stalled (s.block op rest) := by
  unfold issueForByte
  obtain h | ⟨rest, -, h⟩ := issue_cases op s
  · exact .inl (by rw [h]; rfl)
  · exact .inr ⟨rest, by rw [h]; rfl⟩

/-- Everything a FIFO read can do. -/
theorem readFifo_cases (n : Nat) (s : State) :
    readFifo n s = .done (s.draws n) ((s.completed (.fifoRead n)).dropDraws n) ∨
      ∃ rest, readFifo n s = .stalled (s.block (.fifoRead n) rest) := by
  unfold readFifo
  obtain h | ⟨rest, -, h⟩ := issue_cases (.fifoRead n) s
  · exact .inl (by rw [h, Run.andThen_done, State.draws_congr (s := s) (s' := s.completed (.fifoRead n)) rfl rfl])
  · exact .inr ⟨rest, by rw [h]; rfl⟩

/-! ## Arena accesses (20_memory.md R51) -/

/-- `MemWrite` inside the arena writes the bytes and nothing else. -/
theorem memWrite_done {k : Params} {a : Nat} {bs : List Byte} {s : State} (h : a + bs.length ≤ k.arenaBytes) :
    memWrite k a bs s = .done () (s.setArena (Memory.writeAll s.arena a bs)) := by
  induction bs generalizing a s with
  | nil => rfl
  | cons b bs ih =>
    simp only [List.length_cons] at h
    rw [memWrite, arenaWrite, if_pos (by omega), Run.andThen_done, ih (by omega)]
    rfl

/-- Everything `MemWrite` can do: write all the bytes, or stop at an address that does not exist. -/
theorem memWrite_cases (k : Params) (a : Nat) (bs : List Byte) (s : State) :
    memWrite k a bs s = .done () (s.setArena (Memory.writeAll s.arena a bs)) ∨
      ∃ f, memWrite k a bs s = .faulted f := by
  induction bs generalizing a s with
  | nil => exact .inl rfl
  | cons b bs ih =>
    rw [memWrite, arenaWrite]
    split
    · exact ih (a + 1) _
    · exact .inr ⟨_, rfl⟩

/-- `MemRead` of written bytes inside the arena answers them and changes nothing. -/
theorem memRead_done {k : Params} {a : Nat} {bs : List Byte} {s : State} (h : a + bs.length ≤ k.arenaBytes)
    (hb : ∀ j (hj : j < bs.length), Memory.read? s.arena (a + j) = some bs[j]) :
    memRead k a bs.length s = .done bs s := by
  induction bs generalizing a with
  | nil => rfl
  | cons b bs ih =>
    simp only [List.length_cons] at h
    have h0 : Memory.read? s.arena a = some b := hb 0 (by simp)
    have ht := ih (a := a + 1) (by omega) fun j hj => by
      have := hb (j + 1) (by simpa using hj)
      rw [show a + 1 + j = a + (j + 1) by omega, this]
      simp
    simp only [List.length_cons, memRead, arenaRead]
    rw [if_pos (by omega), h0]
    simp [ht]

/-- Everything `MemRead` can do: answer n bytes and change nothing, or stop. -/
theorem memRead_cases (k : Params) (a n : Nat) (s : State) :
    (∃ bs : List Byte, bs.length = n ∧ memRead k a n s = .done bs s) ∨ ∃ f, memRead k a n s = .faulted f := by
  induction n generalizing a with
  | zero => exact .inl ⟨[], rfl, rfl⟩
  | succ n ih =>
    simp only [memRead, arenaRead]
    split
    · split
      · obtain ⟨bs, hl, h⟩ | ⟨f, h⟩ := ih (a + 1)
        · exact .inl ⟨_ :: bs, by simp [hl], by rw [Run.andThen_done, h]; rfl⟩
        · exact .inr ⟨f, by simp [h]⟩
      · exact .inr ⟨_, rfl⟩
    · exact .inr ⟨_, rfl⟩

end Sys2Proof.Machine
end

