-- ==== Sys2Proof/Laws/Commands.lean ====
section
/-! SUPPORT. What the procedures of the commands can do: ARM_RX, ARM_TX, DRAIN and READ's frame, each once
(41_state_machine.md R131, R134; 43_frame_codec.md R184; 42_ring_buffer.md R166). -/

namespace Sys2Proof.Machine

section

/-- Reads of the chip and FIFO writes write no ghost field (20_memory.md R54). -/
@[simp] theorem Ghost.after_fifoRead (g : Ghost) (n : Nat) : g.after (.fifoRead n) = g := rfl
@[simp] theorem Ghost.after_flags1 (g : Ghost) : g.after .flags1 = g := rfl
@[simp] theorem Ghost.after_fifoWrite (g : Ghost) (bs : List Byte) : g.after (.fifoWrite bs) = g := rfl

/-! ## Reads of the chip: trace, draws and stalls move, nothing else does -/

/-- Transactions that write no ghost field, such as reads of the chip. -/
def readsOnly (ops : List Transaction) : Prop := ∀ op, op ∈ ops → ∀ g : Ghost, g.after op = g

theorem readsOnly_flags1_cons {ops : List Transaction} (h : readsOnly ops) : readsOnly (.flags1 :: ops) := by
  intro op hop g
  obtain rfl | hop := List.mem_cons.mp hop
  · rfl
  · exact h op hop g

/-- They leave the ghost fields alone, all together. -/
theorem Ghost.foldl_readsOnly {ops : List Transaction} (h : readsOnly ops) (g : Ghost) :
    ops.foldl Ghost.after g = g := by
  induction ops generalizing g with
  | nil => rfl
  | cons op ops ih =>
    rw [List.foldl_cons, h op List.mem_cons_self]
    exact ih (fun o ho => h o (List.mem_cons_of_mem _ ho)) g

/-- The state after transactions that read the chip and write no ghost field. -/
def State.afterReads (ops : List Transaction) (chip : List Byte) (drawn : Nat) (stalls : List Nat) (s : State) : State :=
  { s with trace := s.trace ++ ops, chipBytes := chip, drawn := drawn, stalls := stalls }

variable (s : State) (ops : List Transaction) (chip : List Byte) (drawn : Nat) (stalls : List Nat)

@[simp] theorem State.afterReads_radio : (s.afterReads ops chip drawn stalls).radio = s.radio := rfl
@[simp] theorem State.afterReads_vl : (s.afterReads ops chip drawn stalls).vl = s.vl := rfl
@[simp] theorem State.afterReads_ad : (s.afterReads ops chip drawn stalls).ad = s.ad := rfl
@[simp] theorem State.afterReads_aes : (s.afterReads ops chip drawn stalls).aes = s.aes := rfl
@[simp] theorem State.afterReads_pUser : (s.afterReads ops chip drawn stalls).pUser = s.pUser := rfl
@[simp] theorem State.afterReads_pc : (s.afterReads ops chip drawn stalls).pc = s.pc := rfl
@[simp] theorem State.afterReads_c : (s.afterReads ops chip drawn stalls).c = s.c := rfl
@[simp] theorem State.afterReads_n : (s.afterReads ops chip drawn stalls).n = s.n := rfl
@[simp] theorem State.afterReads_wIdx : (s.afterReads ops chip drawn stalls).wIdx = s.wIdx := rfl
@[simp] theorem State.afterReads_rIdx : (s.afterReads ops chip drawn stalls).rIdx = s.rIdx := rfl
@[simp] theorem State.afterReads_phase : (s.afterReads ops chip drawn stalls).phase = s.phase := rfl
@[simp] theorem State.afterReads_hp : (s.afterReads ops chip drawn stalls).hp = s.hp := rfl
@[simp] theorem State.afterReads_boost : (s.afterReads ops chip drawn stalls).boost = s.boost := rfl
@[simp] theorem State.afterReads_fault : (s.afterReads ops chip drawn stalls).fault = s.fault := rfl
@[simp] theorem State.afterReads_arena : (s.afterReads ops chip drawn stalls).arena = s.arena := rfl
@[simp] theorem State.afterReads_ghost : (s.afterReads ops chip drawn stalls).ghost = s.ghost := rfl
@[simp] theorem State.afterReads_responses : (s.afterReads ops chip drawn stalls).responses = s.responses := rfl
@[simp] theorem State.afterReads_trace : (s.afterReads ops chip drawn stalls).trace = s.trace ++ ops := rfl
@[simp] theorem State.afterReads_blocked : (s.afterReads ops chip drawn stalls).blocked = s.blocked := rfl
@[simp] theorem State.afterReads_port : (s.afterReads ops chip drawn stalls).port = s.port := rfl
@[simp] theorem State.afterReads_hostCursor : (s.afterReads ops chip drawn stalls).hostCursor = s.hostCursor := rfl
@[simp] theorem State.afterReads_stallCursor : (s.afterReads ops chip drawn stalls).stallCursor = s.stallCursor := rfl
@[simp] theorem State.afterReads_chipBytes : (s.afterReads ops chip drawn stalls).chipBytes = chip := rfl
@[simp] theorem State.afterReads_drawn : (s.afterReads ops chip drawn stalls).drawn = drawn := rfl
@[simp] theorem State.afterReads_stalls : (s.afterReads ops chip drawn stalls).stalls = stalls := rfl

/-- A one-byte read that completes is such a state. -/
theorem completed_dropDraw_eq {op : Transaction} (h : ∀ g : Ghost, g.after op = g) :
    (s.completed op).dropDraw = s.afterReads [op] (s.completed op).dropDraw.chipBytes
      (s.completed op).dropDraw.drawn (stallsAfter s.stalls) := by
  unfold State.dropDraw
  split <;> simp [State.completed, State.afterReads, h]

/-- A FIFO read that completes is such a state. -/
theorem completed_dropDraws_eq (n : Nat) :
    (s.completed (.fifoRead n)).dropDraws n = s.afterReads [.fifoRead n]
      ((s.completed (.fifoRead n)).dropDraws n).chipBytes ((s.completed (.fifoRead n)).dropDraws n).drawn
      (stallsAfter s.stalls) := by
  have h : ∀ (m : Nat) (t : State), t.dropDraws m =
      { t with chipBytes := (t.dropDraws m).chipBytes, drawn := (t.dropDraws m).drawn } := by
    intro m
    induction m with
    | zero => exact fun t => rfl
    | succ m ih =>
      intro t
      rw [State.dropDraws, ih t.dropDraw]
      unfold State.dropDraw
      split <;> rfl
  rw [h]
  rfl

/-- Reads after reads. -/
theorem State.afterReads_afterReads (ops' : List Transaction) (chip' : List Byte) (drawn' : Nat)
    (stalls' : List Nat) : (s.afterReads ops chip drawn stalls).afterReads ops' chip' drawn' stalls' =
      s.afterReads (ops ++ ops') chip' drawn' stalls' := by
  simp [State.afterReads]

/-- The two FIFO reads of a variable-length drain, both completed, are such a state. -/
theorem completed_two_reads_eq (n : Nat) (t : State)
    (ht : ((s.completed (.fifoRead 1)).dropDraw.completed (.fifoRead n)).dropDraws n = t) :
    t = s.afterReads [.fifoRead 1, .fifoRead n] t.chipBytes t.drawn t.stalls := by
  have h1 := completed_dropDraw_eq (s := s) (op := .fifoRead 1) fun g => rfl
  have h2 := completed_dropDraws_eq (s.completed (.fifoRead 1)).dropDraw n
  rw [ht] at h2
  have h3 : stallsAfter (s.completed (.fifoRead 1)).dropDraw.stalls = t.stalls := by rw [← ht]; simp
  rw [h3] at h2
  generalize t.chipBytes = x at h2 ⊢
  generalize t.drawn = y at h2 ⊢
  generalize t.stalls = z at h2 ⊢
  rw [h2, h1, State.afterReads_afterReads]
  rfl

/-- Of two writes of the arena the last one counts. -/
@[simp] theorem State.setArena_setArena (m m' : Memory) : (s.setArena m).setArena m' = s.setArena m' := rfl

end

/-! ## ARM_RX and ARM_TX -/

/-- `ARM_RX` once its transactions complete (41_state_machine.md R131). -/
theorem armRx_done {s : State} (h : transactionsComplete (armRxTransactions s.boost).length s) :
    armRx s = .done () ((s.completedAll (armRxTransactions s.boost)).setRadio .receiving) := by
  rw [armRx, issueAll_done h, Run.andThen_done]

/-- Everything `ARM_RX` can do: run to its end, or block the CORE in one of its transactions with `state` unchanged. -/
theorem armRx_cases (s : State) :
    armRx s = .done () ((s.completedAll (armRxTransactions s.boost)).setRadio .receiving) ∨
      ∃ before op after rest, armRxTransactions s.boost = before ++ op :: after ∧
        armRx s = .stalled ((s.completedAll before).block op rest) := by
  unfold armRx
  obtain h | ⟨before, op, after, rest, hops, h⟩ := issueAll_cases (armRxTransactions s.boost) s
  · exact .inl (by rw [h, Run.andThen_done])
  · exact .inr ⟨before, op, after, rest, hops, by rw [h, Run.andThen_stalled]⟩

/-- The state write of `ARM_TX` and the transactions around it commute. -/
theorem completed_radio (s : State) (r : RadioState) (op : Transaction) :
    (s.setRadio r).completed op = (s.completed op).setRadio r := rfl

/-- `ARM_TX(frame)` once its transactions complete: all of them in order, and Sending (41_state_machine.md R134). -/
theorem armTx_done {s : State} {frame : List Byte}
    (h : transactionsComplete (armTxTransactions s.boost ++ [Transaction.fifoWrite frame]).length s) :
    armTx frame s =
      .done () ((s.completedAll (armTxTransactions s.boost ++ [.fifoWrite frame])).setRadio .sending) := by
  have hlen : transactionsComplete ((armTxTransactions s.boost).length + 1) s := by simpa using h
  have hlast : ∀ (ops : List Transaction) (t : State), transactionsComplete (ops.length + 1) t →
      transactionsComplete 1 (t.completedAll ops) := by
    intro ops
    induction ops with
    | nil => exact fun t ht => ht
    | cons op ops ih => exact fun t ht => ih _ (transactionsComplete_completed ht)
  rw [armTx, issueAll_done (transactionsComplete_mono hlen (by omega)), Run.andThen_done,
    issue_done (m := 0) (transactionsComplete_congr (s' := State.setRadio .sending _) rfl (hlast _ _ hlen)),
    State.completedAll_append]
  rfl

/-- Everything `ARM_TX` can do: run to its end; block the CORE before its state write; or block it in the FIFO write,
with `state` already Sending (41_state_machine.md R134). -/
theorem armTx_cases (frame : List Byte) (s : State) :
    armTx frame s =
        .done () ((s.completedAll (armTxTransactions s.boost ++ [.fifoWrite frame])).setRadio .sending) ∨
      (∃ before op after rest, armTxTransactions s.boost = before ++ op :: after ∧
        armTx frame s = .stalled ((s.completedAll before).block op rest)) ∨
      ∃ rest, armTx frame s = .stalled (((s.completedAll (armTxTransactions s.boost)).setRadio
        .sending).block (.fifoWrite frame) rest) := by
  unfold armTx
  obtain h | ⟨before, op, after, rest, hops, h⟩ := issueAll_cases (armTxTransactions s.boost) s
  · rw [h, Run.andThen_done]
    obtain h' | ⟨rest, -, h'⟩ :=
      issue_cases (.fifoWrite frame) ((s.completedAll (armTxTransactions s.boost)).setRadio .sending)
    · refine .inl ?_
      rw [h', State.completedAll_append]
      rfl
    · exact .inr (.inr ⟨rest, h'⟩)
  · exact .inr (.inl ⟨before, op, after, rest, hops, by rw [h, Run.andThen_stalled]⟩)

/-! ## The frame codec -/

/-- The frame length of each layout (43_frame_codec.md R180). -/
theorem encodeFrame_length (vv : Bool) (address : Option Byte) (payload : List Byte) :
    (encodeFrame vv address payload).length = payload.length + address.isSome.toNat + vv.toNat := by
  cases vv <;> cases address <;> simp [encodeFrame]

/-- The clamped length is a byte (43_frame_codec.md R185). -/
theorem drainLength_lt (raw : Byte) (s : State) : drainLength raw s < 256 := by
  have := raw.isLt
  simp only [drainLength, zext8]
  omega

@[simp] theorem lengthByte_toNat {len : Nat} (h : len < 256) : (lengthByte len).toNat = len := by
  simp [lengthByte, Nat.mod_eq_of_lt h]

/-- What a drain stores, by the frame mode: a length byte and that many bytes, or PC bytes (43_frame_codec.md R185,
R186). -/
def storedFrame (s : State) (stored : List Byte) : Prop :=
  if s.vl then ∃ payload : List Byte, payload.length ≤ s.c.toNat - 1 ∧ payload.length < 256 ∧
    stored = lengthByte payload.length :: payload
  else stored.length = s.pc.toNat

/-- A fixed-length drain that fits the arena and whose transaction completes (43_frame_codec.md R186). -/
theorem drainFixed_done {k : Params} {base : Nat} {s : State} (h : transactionsComplete 1 s)
    (hfit : base + s.pc.toNat ≤ k.arenaBytes) :
    drainFixed k base s =
      .done () (((s.completed (.fifoRead s.pc.toNat)).dropDraws s.pc.toNat).setArena
        (Memory.writeAll s.arena base (s.draws s.pc.toNat))) := by
  rw [drainFixed, readFifo_done h, Run.andThen_done, memWrite_done (by simpa using hfit)]
  simp

/-- The same drain writes a frame of PC bytes to the arena and changes no other register: the form invariants use. -/
theorem drainFixed_cases (k : Params) (base : Nat) (s : State) :
    (∃ stored chip drawn stalls, stored.length = s.pc.toNat ∧
      drainFixed k base s = .done () ((s.afterReads [.fifoRead s.pc.toNat] chip drawn stalls).setArena
        (Memory.writeAll s.arena base stored))) ∨
      (∃ op stalls, drainFixed k base s = .stalled (s.block op stalls)) ∨
      ∃ f, drainFixed k base s = .faulted f := by
  unfold drainFixed
  obtain h | ⟨rest, h⟩ := readFifo_cases s.pc.toNat s
  · rw [h, Run.andThen_done]
    obtain h' | ⟨f, h'⟩ := memWrite_cases k base (s.draws s.pc.toNat)
      ((s.completed (.fifoRead s.pc.toNat)).dropDraws s.pc.toNat)
    · refine .inl ⟨s.draws s.pc.toNat, ((s.completed (.fifoRead s.pc.toNat)).dropDraws s.pc.toNat).chipBytes,
        ((s.completed (.fifoRead s.pc.toNat)).dropDraws s.pc.toNat).drawn, stallsAfter s.stalls, by simp, ?_⟩
      rw [h', ← completed_dropDraws_eq, State.dropDraws_arena, State.completed_arena]
    · exact .inr (.inr ⟨f, h'⟩)
  · exact .inr (.inl ⟨_, rest, by rw [h, Run.andThen_stalled]⟩)

/-- A variable-length drain that fits the arena and whose two transactions complete (43_frame_codec.md R184, R185). -/
theorem drainVariable_done {k : Params} {base : Nat} {s : State} (h : transactionsComplete 2 s)
    (hfit : base + 1 + drainLength s.nextDraw s ≤ k.arenaBytes) :
    drainVariable k base s =
      .done () ((((s.completed (.fifoRead 1)).dropDraw.completed (.fifoRead (drainLength s.nextDraw s))).dropDraws
        (drainLength s.nextDraw s)).setArena (Memory.writeAll s.arena base
          (lengthByte (drainLength s.nextDraw s) :: s.dropDraw.draws (drainLength s.nextDraw s)))) := by
  have h2 : transactionsComplete 1 (s.completed (.fifoRead 1)).dropDraw :=
    transactionsComplete_congr (by simp) (transactionsComplete_completed (op := .fifoRead 1) h)
  have hlen : drainLength s.nextDraw (s.completed (.fifoRead 1)).dropDraw = drainLength s.nextDraw s := by
    simp [drainLength]
  have hin := State.dropDraw_inputs (s := s) (s' := s.completed (.fifoRead 1)) rfl rfl
  rw [drainVariable, readFifoByte, issueForByte_done h, Run.andThen_done, hlen, readFifo_done h2, Run.andThen_done,
    arenaWrite, if_pos (by omega), Run.andThen_done, memWrite_done (by simpa using hfit),
    State.draws_congr hin.1 hin.2]
  simp [Memory.writeAll]

/-- Everything a variable-length drain can do. -/
theorem drainVariable_cases (k : Params) (base : Nat) (s : State) :
    (∃ (payload : List Byte) (ops : List Transaction) (chip : List Byte) (drawn : Nat) (stalls : List Nat),
      payload.length ≤ s.c.toNat - 1 ∧ payload.length < 256 ∧ ops = [.fifoRead 1, .fifoRead payload.length] ∧
      drainVariable k base s = .done () ((s.afterReads ops chip drawn stalls).setArena
        (Memory.writeAll s.arena base (lengthByte payload.length :: payload)))) ∨
      (∃ ops op chip drawn stalls, (ops = [] ∨ ops = [.fifoRead 1]) ∧
        drainVariable k base s = .stalled ((s.afterReads ops chip drawn stalls).block op stalls)) ∨
      ∃ f, drainVariable k base s = .faulted f := by
  unfold drainVariable readFifoByte
  obtain h | ⟨rest, h⟩ := issueForByte_cases (.fifoRead 1) s
  · rw [h, Run.andThen_done]
    have hlen : drainLength s.nextDraw (s.completed (.fifoRead 1)).dropDraw = drainLength s.nextDraw s := by
      simp [drainLength]
    rw [hlen]
    obtain h' | ⟨rest, h'⟩ := readFifo_cases (drainLength s.nextDraw s) (s.completed (.fifoRead 1)).dropDraw
    · rw [h', Run.andThen_done, arenaWrite]
      split
      · rw [Run.andThen_done]
        generalize hs' : ((s.completed (.fifoRead 1)).dropDraw.completed
          (.fifoRead (drainLength s.nextDraw s))).dropDraws (drainLength s.nextDraw s) = s'
        obtain h'' | ⟨f, h''⟩ := memWrite_cases k (base + 1) ((s.completed (.fifoRead 1)).dropDraw.draws
          (drainLength s.nextDraw s))
          (s'.setArena (Memory.write s'.arena base (lengthByte (drainLength s.nextDraw s))))
        · refine .inl ⟨(s.completed (.fifoRead 1)).dropDraw.draws (drainLength s.nextDraw s), _, s'.chipBytes,
            s'.drawn, s'.stalls, ?_, ?_, rfl, ?_⟩
          · simp [drainLength]
          · simpa using drainLength_lt s.nextDraw s
          · have ha : s'.arena = s.arena := by rw [← hs']; simp
            rw [h'', State.setArena_setArena, State.setArena_arena, ha, State.draws_length, Memory.writeAll]
            rw [← completed_two_reads_eq s _ s' hs']
        · exact .inr (.inr ⟨f, h''⟩)
      · exact .inr (.inr ⟨_, rfl⟩)
    · refine .inr (.inl ⟨[.fifoRead 1], .fifoRead (drainLength s.nextDraw s),
        (s.completed (.fifoRead 1)).dropDraw.chipBytes, (s.completed (.fifoRead 1)).dropDraw.drawn, rest, .inr rfl, ?_⟩)
      rw [h', Run.andThen_stalled, completed_dropDraw_eq s fun g => rfl]
      rfl
  · refine .inr (.inl ⟨[], .fifoRead 1, s.chipBytes, s.drawn, rest, .inl rfl, ?_⟩)
    rw [h, Run.andThen_stalled]
    simp [State.afterReads, State.block]

/-- Everything DRAIN(i) can do: store a frame in slot i, reading the chip FIFO alone; block the CORE with the arena
unchanged; or stop at an address that does not exist (43_frame_codec.md R184). -/
theorem drain_cases (k : Params) (i : BitVec 8) (s : State) :
    (∃ stored ops chip drawn stalls, storedFrame s stored ∧ readsOnly ops ∧
      drain k i s = .done () ((s.afterReads ops chip drawn stalls).setArena
        (Memory.writeAll s.arena (slotBase i s) stored))) ∨
      (∃ ops op chip drawn stalls, readsOnly ops ∧
        drain k i s = .stalled ((s.afterReads ops chip drawn stalls).block op stalls)) ∨
      ∃ f, drain k i s = .faulted f := by
  unfold drain
  split
  · rename_i hvl
    obtain ⟨payload, ops, chip, drawn, stalls, hc, hb, rfl, h⟩ | ⟨ops, op, chip, drawn, stalls, hops, h⟩ | h :=
      drainVariable_cases k (slotBase i s) s
    · exact .inl ⟨_, _, chip, drawn, stalls, by rw [storedFrame, if_pos hvl]; exact ⟨payload, hc, hb, rfl⟩,
        by simp [readsOnly], h⟩
    · refine .inr (.inl ⟨ops, op, chip, drawn, stalls, ?_, h⟩)
      obtain rfl | rfl := hops <;> simp [readsOnly]
    · exact .inr (.inr h)
  · rename_i hvl
    obtain ⟨stored, chip, drawn, stalls, hl, h⟩ | ⟨op, stalls, h⟩ | h := drainFixed_cases k (slotBase i s) s
    · exact .inl ⟨stored, _, chip, drawn, stalls, by rw [storedFrame, if_neg hvl]; exact hl, by simp [readsOnly], h⟩
    · exact .inr (.inl ⟨[], op, s.chipBytes, s.drawn, stalls, by simp [readsOnly], by rw [h]; simp [State.afterReads, State.block]⟩)
    · exact .inr (.inr h)

/-! ## The ring buffer -/

/-- The next index stays below N (42_ring_buffer.md R161). -/
theorem nextIndex_toNat {n i : BitVec 8} (h : 1 ≤ n.toNat) : (nextIndex n i).toNat = (i.toNat + 1) % n.toNat := by
  have h1 := Nat.mod_lt (i.toNat + 1) h
  have h2 := n.isLt
  simp only [nextIndex, BitVec.toNat_ofNat]
  exact Nat.mod_eq_of_lt (by omega)

/-- Everything READ's body can do: answer empty; answer a length byte and as many data bytes, with r_idx advanced; or
stop (42_ring_buffer.md R166). -/
theorem readFrame_cases (k : Params) (s : State) :
    (s.rIdx = s.wIdx ∧ readFrame k s = .done [0x00#8] s) ∨
      (s.rIdx ≠ s.wIdx ∧ ∃ data : List Byte, data.length ≤ s.pc.toNat ∧
        readFrame k s = .done (lengthByte data.length :: data) (s.setReadIndex (nextIndex s.n s.rIdx))) ∨
      ∃ f, readFrame k s = .faulted f := by
  have bytes : ∀ a len, len ≤ s.pc.toNat →
      (∃ data : List Byte, data.length ≤ s.pc.toNat ∧ readBytes k a len s = .done (lengthByte data.length :: data) s) ∨
        ∃ f, readBytes k a len s = .faulted f := by
    intro a len hlen
    unfold readBytes
    obtain ⟨bs, hl, h⟩ | ⟨f, h⟩ := memRead_cases k a len s
    · exact .inl ⟨bs, by omega, by rw [h, Run.andThen_done, hl]⟩
    · exact .inr ⟨f, by rw [h, Run.andThen_faulted]⟩
  have slot : (∃ data : List Byte, data.length ≤ s.pc.toNat ∧
      readSlot k s = .done (lengthByte data.length :: data) s) ∨ ∃ f, readSlot k s = .faulted f := by
    unfold readSlot
    split
    · unfold arenaRead
      split
      · split
        · rw [Run.andThen_done]
          exact bytes _ _ (Nat.min_le_right _ _)
        · exact .inr ⟨_, rfl⟩
      · exact .inr ⟨_, rfl⟩
    · exact bytes _ _ (Nat.le_refl _)
  unfold readFrame
  split
  · rename_i h; exact .inl ⟨h, rfl⟩
  · rename_i h
    obtain ⟨data, hd, hs⟩ | ⟨f, hf⟩ := slot
    · exact .inr (.inl ⟨h, data, hd, by rw [hs, Run.andThen_done]⟩)
    · exact .inr (.inr ⟨f, by rw [hf, Run.andThen_faulted]⟩)

end Sys2Proof.Machine
end

