-- ==== Sys2Proof/Laws/Exec.lean ====
section
/-! SUPPORT. Everything each command can do when it answers a next state, said once: its fault, its end with the
response placed, or a block in one of its transactions (60_exceptions.md R221, R227; 30_encoding.md R84). -/

namespace Sys2Proof.Machine

/-- A configuration command's last steps end it, or block the CORE in its one transaction. -/
theorem configureChip_cases {op : Transaction} {s t : State} (h : configureChip op s = .next t) :
    t = (s.completed op).respond [] ∨ ∃ rest, t = s.block op rest := by
  unfold configureChip at h
  obtain hi | ⟨rest, -, hi⟩ := issue_cases op s <;> rw [hi] at h
  · exact .inl (by simpa using h.symm)
  · exact .inr ⟨rest, by simpa using h.symm⟩

/-- Everything CFG_FRAME can do (40_configuration.md R110). -/
theorem execCfgFrame_cases {vl ad : Bool} {s t : State} (h : execCfgFrame vl ad s = .next t) :
    (s.phase ≠ .opened ∧ t = s.setFault .configOrder (encodeWord (.cfgFrame vl ad))) ∨
      (s.phase = .opened ∧ (t = ((s.setFrameMode vl ad).completed (.cfgFrame vl ad)).respond [] ∨
        ∃ rest, t = (s.setFrameMode vl ad).block (.cfgFrame vl ad) rest)) := by
  unfold execCfgFrame at h
  split at h
  · exact .inl ⟨‹_›, raiseFault_eq_next.mp h⟩
  · exact .inr ⟨not_not.mp ‹_›, configureChip_cases h⟩

/-- Everything CFG_AES can do (40_configuration.md R112). -/
theorem execCfgAes_cases {e : Bool} {s t : State} (h : execCfgAes e s = .next t) :
    (s.phase ≠ .opened ∧ t = s.setFault .configOrder (encodeWord (.cfgAes e))) ∨
      (s.phase = .opened ∧ (t = ((s.setAes e).completed (.cfgAes e)).respond [] ∨
        ∃ rest, t = (s.setAes e).block (.cfgAes e) rest)) := by
  unfold execCfgAes at h
  split at h
  · exact .inl ⟨‹_›, raiseFault_eq_next.mp h⟩
  · exact .inr ⟨not_not.mp ‹_›, configureChip_cases h⟩

/-- Everything CFG_SLOTS can do (40_configuration.md R114). -/
theorem execCfgSlots_cases {nReq : Byte} {s t : State} (h : execCfgSlots nReq s = .next t) :
    (s.phase = .ready ∧ t = s.setFault .configOrder (encodeWord (.cfgSlots nReq))) ∨
      (s.phase ≠ .ready ∧ nReq.toNat = 0 ∧ t = s.setFault .badOperand (encodeWord (.cfgSlots nReq))) ∨
      (s.phase ≠ .ready ∧ nReq.toNat ≠ 0 ∧ t = (s.chooseSlots nReq).respond []) := by
  unfold execCfgSlots zext8 at h
  split at h
  · exact .inl ⟨‹_›, raiseFault_eq_next.mp h⟩
  · split at h
    · exact .inr (.inl ⟨‹_›, ‹_›, raiseFault_eq_next.mp h⟩)
    · exact .inr (.inr ⟨‹_›, ‹_›, by simpa using h.symm⟩)

/-- Everything CFG_PAYLOAD can do (40_configuration.md R116). -/
theorem execCfgPayload_cases {k : Params} {pReq : Byte} {s t : State} (h : execCfgPayloadWith k pReq s = .next t) :
    (∃ code, t = s.setFault code (encodeWord (.cfgPayload pReq))) ∨
      (s.phase = .sized ∧ pReq.toNat ≤ 64 ∧
        s.n.toNat * slotSize (internalCapacity pReq.toNat s.ad s.vl) s.vl ≤ k.arenaBytes ∧
        ∃ op a, op = .cfgLen (BitVec.ofNat 7 (internalCapacity pReq.toNat s.ad s.vl)) ∧
          a = allocateSlots pReq.toNat (internalCapacity pReq.toNat s.ad s.vl)
            (slotSize (internalCapacity pReq.toNat s.ad s.vl) s.vl) s ∧
          (t = (a.completed op).respond [] ∨ ∃ rest, t = a.block op rest)) := by
  simp only [execCfgPayloadWith] at h
  split at h
  · exact .inl ⟨_, raiseFault_eq_next.mp h⟩
  · split at h
    · exact .inl ⟨_, raiseFault_eq_next.mp h⟩
    · split at h
      · exact .inl ⟨_, raiseFault_eq_next.mp h⟩
      · rename_i h1 h2 h3
        exact .inr ⟨not_not.mp h1, Nat.le_of_not_lt h2, Nat.le_of_not_lt h3, _, _, rfl, rfl, configureChip_cases h⟩

/-- Everything SET_POWER can do (44_power.md R203). -/
theorem execSetPower_cases {dbm : Byte} {b : Bool} {s t : State} (h : execSetPower dbm b s = .next t) :
    t = ((s.completedAll (powerTransactions (powerMap (sext8 dbm) b s.hp))).setBoost
        (powerMap (sext8 dbm) b s.hp).boost).respond [] ∨
      ∃ before op after rest, powerTransactions (powerMap (sext8 dbm) b s.hp) = before ++ op :: after ∧
        t = (s.completedAll before).block op rest := by
  simp only [execSetPower] at h
  obtain hi | ⟨before, op, after, rest, hops, hi⟩ :=
    issueAll_cases (powerTransactions (powerMap (sext8 dbm) b s.hp)) s <;> rw [hi] at h
  · exact .inl (by simpa using h.symm)
  · exact .inr ⟨before, op, after, rest, hops, by simpa using h.symm⟩

/-- Everything RECEIVE can do (41_state_machine.md R132). -/
theorem execReceive_cases {s t : State} (h : execReceive s = .next t) :
    (s.phase ≠ .ready ∧ t = s.setFault .notReady (encodeWord .receive)) ∨
      (s.phase = .ready ∧
        (t = ((s.completedAll (armRxTransactions s.boost)).setRadio .receiving).respond [] ∨
          ∃ before op after rest, armRxTransactions s.boost = before ++ op :: after ∧
            t = (s.completedAll before).block op rest)) := by
  unfold execReceive at h
  split at h
  · exact .inl ⟨‹_›, raiseFault_eq_next.mp h⟩
  · refine .inr ⟨not_not.mp ‹_›, ?_⟩
    obtain hi | ⟨before, op, after, rest, hops, hi⟩ := armRx_cases s <;> rw [hi] at h
    · exact .inl (by simpa using h.symm)
    · exact .inr ⟨before, op, after, rest, hops, by simpa using h.symm⟩

/-- Everything a SEND command can do (41_state_machine.md R135). -/
theorem sendCommon_cases {vv : Bool} {address : Option Byte} {payload : List Byte} {lengthOk : Bool}
    {word : CommandWord} {s t : State} (h : sendCommon vv address payload lengthOk word s = .next t) :
    (∃ code, t = s.setFault code word) ∨
      (s.phase = .ready ∧ s.vl = vv ∧ s.ad = address.isSome ∧ lengthOk = true ∧
        (t = ((s.completedAll (armTxTransactions s.boost ++ [.fifoWrite (encodeFrame vv address payload)])).setRadio
            .sending).respond [] ∨
          (∃ before op after rest, armTxTransactions s.boost = before ++ op :: after ∧
            t = (s.completedAll before).block op rest) ∨
          ∃ rest, t = ((s.completedAll (armTxTransactions s.boost)).setRadio .sending).block
            (.fifoWrite (encodeFrame vv address payload)) rest)) := by
  unfold sendCommon at h
  split at h
  · exact .inl ⟨_, raiseFault_eq_next.mp h⟩
  · split at h
    · exact .inl ⟨_, raiseFault_eq_next.mp h⟩
    · split at h
      · exact .inl ⟨_, raiseFault_eq_next.mp h⟩
      · rename_i h1 h2 h3
        simp only [ne_eq, not_not, Prod.mk.injEq] at h1 h2
        refine .inr ⟨h1, h2.1.symm, h2.2.symm, by simpa using h3, ?_⟩
        obtain hi | ⟨before, op, after, rest, hops, hi⟩ | ⟨rest, hi⟩ :=
          armTx_cases (encodeFrame vv address payload) s <;> rw [hi] at h
        · exact .inl (by simpa using h.symm)
        · exact .inr (.inl ⟨before, op, after, rest, hops, by simpa using h.symm⟩)
        · exact .inr (.inr ⟨rest, by simpa using h.symm⟩)

/-- Everything READ can do (42_ring_buffer.md R166). -/
theorem execRead_cases {k : Params} {s t : State} (h : execReadWith k s = .next t) :
    (s.rIdx = s.wIdx ∧ t = s.respond [0x00#8]) ∨
      (s.rIdx ≠ s.wIdx ∧ ∃ data : List Byte, data.length ≤ s.pc.toNat ∧
        t = (s.setReadIndex (nextIndex s.n s.rIdx)).respond (lengthByte data.length :: data)) := by
  unfold execReadWith at h
  obtain ⟨hr, hf⟩ | ⟨hr, data, hd, hf⟩ | ⟨f, hf⟩ := readFrame_cases k s <;> rw [hf] at h
  · exact .inl ⟨hr, by simpa using h.symm⟩
  · exact .inr ⟨hr, data, hd, by simpa using h.symm⟩
  · simp at h

/-- Everything POLL can do (41_state_machine.md R140): its fault; a block in the flag read; nothing more; a drain with
the push, or a block in one of the drain's reads; reception armed again, or a block while it is armed. -/
theorem execPoll_cases {k : Params} {s t : State} (h : execPollWith k s = .next t) :
    (s.phase ≠ .ready ∧ t = s.setFault .notReady (encodeWord .poll)) ∨
      (s.phase = .ready ∧
        ((∃ rest, t = s.block .flags1 rest) ∨
          ((s.radio = .receiving ∧ automodeActive k s.nextDraw = false ∨
              s.radio = .sending ∧ automodeActive k s.nextDraw = true) ∧
            t = (s.completed .flags1).dropDraw.respond []) ∨
          (s.radio = .receiving ∧ automodeActive k s.nextDraw = true ∧
            ∃ ops chip drawn stalls, readsOnly ops ∧
              ((∃ stored, storedFrame s stored ∧
                  t = (push ((s.afterReads ops chip drawn stalls).setArena
                    (Memory.writeAll s.arena (slotBase s.wIdx s) stored))).respond []) ∨
                ∃ op, t = (s.afterReads ops chip drawn stalls).block op stalls)) ∨
          (s.radio = .sending ∧ automodeActive k s.nextDraw = false ∧
            (t = (((s.completed .flags1).dropDraw.completedAll (armRxTransactions s.boost)).setRadio
                .receiving).respond [] ∨
              ∃ before op after rest, armRxTransactions s.boost = before ++ op :: after ∧
                t = ((s.completed .flags1).dropDraw.completedAll before).block op rest)))) := by
  unfold execPollWith at h
  split at h
  · exact .inl ⟨‹_›, raiseFault_eq_next.mp h⟩
  · refine .inr ⟨not_not.mp ‹_›, ?_⟩
    unfold readFlags1 at h
    obtain hi | ⟨rest, hi⟩ := issueForByte_cases .flags1 s <;> rw [hi] at h
    · rw [Run.andThen_done] at h
      unfold pollDecision at h
      split at h <;> rename_i hr ha <;> simp only [State.dropDraw_radio, State.completed_radio] at hr
      · refine .inr (.inr (.inl ⟨hr, ha, ?_⟩))
        unfold drainAndPush at h
        have hread := completed_dropDraw_eq s (op := .flags1) fun g => rfl
        generalize (s.completed .flags1).dropDraw.chipBytes = chip0 at hread
        generalize (s.completed .flags1).dropDraw.drawn = drawn0 at hread
        rw [hread] at h
        generalize hs0 : s.afterReads [.flags1] chip0 drawn0 (stallsAfter s.stalls) = s0 at h
        have hw : s0.wIdx = s.wIdx := by rw [← hs0]; rfl
        have hfr : ∀ stored, storedFrame s0 stored → storedFrame s stored := by rw [← hs0]; exact fun _ h => h
        obtain ⟨stored, ops, chip, drawn, stalls, hst, hg, hd⟩ | ⟨ops, op, chip, drawn, stalls, hg, hd⟩ | ⟨f, hd⟩ :=
          drain_cases k s0.wIdx s0 <;> rw [hd] at h
        · refine ⟨.flags1 :: ops, chip, drawn, stalls, readsOnly_flags1_cons hg, .inl ⟨stored, hfr stored hst, ?_⟩⟩
          rw [← List.singleton_append, ← State.afterReads_afterReads s _ chip0 drawn0 (stallsAfter s.stalls), hs0, ← hw]
          simpa [← hs0, slotBase] using h.symm
        · refine ⟨.flags1 :: ops, chip, drawn, stalls, readsOnly_flags1_cons hg, .inr ⟨op, ?_⟩⟩
          rw [← List.singleton_append, ← State.afterReads_afterReads s _ chip0 drawn0 (stallsAfter s.stalls), hs0]
          simpa using h.symm
        · simp at h
      · exact .inr (.inl ⟨.inl ⟨hr, ha⟩, by simpa using h.symm⟩)
      · refine .inr (.inr (.inr ⟨hr, ha, ?_⟩))
        unfold rearm at h
        obtain hi' | ⟨before, op, after, rest, hops, hi'⟩ := armRx_cases (s.completed .flags1).dropDraw <;> rw [hi'] at h
        · exact .inl (by simpa using h.symm)
        · exact .inr ⟨before, op, after, rest, by simpa using hops, by simpa using h.symm⟩
      · exact .inr (.inl ⟨.inr ⟨hr, ha⟩, by simpa using h.symm⟩)
    · exact .inl ⟨rest, by simpa using h.symm⟩

/-! ## All commands at once -/

/-- What must hold for a command to raise a fault, as far as the phase or the opcode alone says (60_exceptions.md R220). -/
def mayRaise (i : Instr) (s : State) : Prop :=
  match i with
  | .cfgFrame _ _ => s.phase ≠ .opened
  | .cfgAes _ => s.phase ≠ .opened
  | .cfgSlots _ => True
  | .cfgPayload _ => True
  | .setHighpower => False
  | .setPower _ _ => False
  | .receive => s.phase ≠ .ready
  | .poll => s.phase ≠ .ready
  | .available => False
  | .read => False
  | .canSend => False
  | .send _ => True
  | .sendAddr _ _ => True
  | .sendVar _ => True
  | .sendAddrVar _ _ => True

/-- The registers CFG_PAYLOAD writes, for a payload capacity that fits (40_configuration.md R116). -/
def allocated (pReq : Byte) (s : State) : State :=
  allocateSlots pReq.toNat (internalCapacity pReq.toNat s.ad s.vl)
    (slotSize (internalCapacity pReq.toNat s.ad s.vl) s.vl) s

/-- Everything a command can do when it answers a next state, one case for each way it ends: its fault, its end, or a
block in one of its transactions. A proof about all commands takes these cases by `cases`. -/
inductive Effect : Instr → State → State → Prop
  | raised (i : Instr) (s : State) (code : FaultCode) (hr : mayRaise i s) : Effect i s (s.setFault code (encodeWord i))
  | frame (vl ad : Bool) (s : State) (hp : s.phase = .opened) :
    Effect (.cfgFrame vl ad) s (((s.setFrameMode vl ad).completed (.cfgFrame vl ad)).respond [])
  | frameBlock (vl ad : Bool) (s : State) (rest : List Nat) (hp : s.phase = .opened) :
    Effect (.cfgFrame vl ad) s ((s.setFrameMode vl ad).block (.cfgFrame vl ad) rest)
  | aes (e : Bool) (s : State) (hp : s.phase = .opened) :
    Effect (.cfgAes e) s (((s.setAes e).completed (.cfgAes e)).respond [])
  | aesBlock (e : Bool) (s : State) (rest : List Nat) (hp : s.phase = .opened) :
    Effect (.cfgAes e) s ((s.setAes e).block (.cfgAes e) rest)
  | slots (nReq : Byte) (s : State) (hp : s.phase ≠ .ready) (hn : nReq.toNat ≠ 0) :
    Effect (.cfgSlots nReq) s ((s.chooseSlots nReq).respond [])
  | payload (pReq : Byte) (s : State) (op : Transaction) (hp : s.phase = .sized) (hb : pReq.toNat ≤ 64)
    (hf : s.n.toNat * slotSize (internalCapacity pReq.toNat s.ad s.vl) s.vl ≤ Config.params.arenaBytes)
    (hop : op = .cfgLen (BitVec.ofNat 7 (internalCapacity pReq.toNat s.ad s.vl))) :
    Effect (.cfgPayload pReq) s (((allocated pReq s).completed op).respond [])
  | payloadBlock (pReq : Byte) (s : State) (op : Transaction) (rest : List Nat) (hp : s.phase = .sized) (hb : pReq.toNat ≤ 64)
    (hf : s.n.toNat * slotSize (internalCapacity pReq.toNat s.ad s.vl) s.vl ≤ Config.params.arenaBytes)
    (hop : op = .cfgLen (BitVec.ofNat 7 (internalCapacity pReq.toNat s.ad s.vl))) :
    Effect (.cfgPayload pReq) s ((allocated pReq s).block op rest)
  | highpower (s : State) : Effect .setHighpower s ((s.setClass .highPower).respond [])
  | power (dbm : Byte) (b : Bool) (s : State) :
    Effect (.setPower dbm b) s (((s.completedAll (powerTransactions (powerMap (sext8 dbm) b s.hp))).setBoost
      (powerMap (sext8 dbm) b s.hp).boost).respond [])
  | powerBlock (dbm : Byte) (b : Bool) (s : State) (before : List Transaction) (op : Transaction)
    (after : List Transaction) (rest : List Nat)
    (hops : powerTransactions (powerMap (sext8 dbm) b s.hp) = before ++ op :: after) :
    Effect (.setPower dbm b) s ((s.completedAll before).block op rest)
  | receive (s : State) (hp : s.phase = .ready) :
    Effect .receive s (((s.completedAll (armRxTransactions s.boost)).setRadio .receiving).respond [])
  | receiveBlock (s : State) (before : List Transaction) (op : Transaction) (after : List Transaction)
    (rest : List Nat) (hp : s.phase = .ready) (hops : armRxTransactions s.boost = before ++ op :: after) :
    Effect .receive s ((s.completedAll before).block op rest)
  | send (i : Instr) (s : State) (frame : List Byte) (hi : i.isSend = true) (hp : s.phase = .ready) :
    Effect i s (((s.completedAll (armTxTransactions s.boost ++ [.fifoWrite frame])).setRadio .sending).respond [])
  | sendBlock (i : Instr) (s : State) (before : List Transaction) (op : Transaction) (after : List Transaction)
    (rest : List Nat) (hi : i.isSend = true) (hp : s.phase = .ready)
    (hops : armTxTransactions s.boost = before ++ op :: after) : Effect i s ((s.completedAll before).block op rest)
  | sendBlockWrite (i : Instr) (s : State) (frame : List Byte) (rest : List Nat) (hi : i.isSend = true)
    (hp : s.phase = .ready) :
    Effect i s (((s.completedAll (armTxTransactions s.boost)).setRadio .sending).block (.fifoWrite frame) rest)
  | available (s : State) : Effect .available s (s.respond [statusByte (availFlag s)])
  | canSend (s : State) : Effect .canSend s (s.respond [statusByte (canSendFlag s)])
  | readEmpty (s : State) (hr : s.rIdx = s.wIdx) : Effect .read s (s.respond [0x00#8])
  | readFrame (s : State) (data : List Byte) (hr : s.rIdx ≠ s.wIdx) (hd : data.length ≤ s.pc.toNat) :
    Effect .read s ((s.setReadIndex (nextIndex s.n s.rIdx)).respond (lengthByte data.length :: data))
  | pollBlock (s : State) (rest : List Nat) (hp : s.phase = .ready) : Effect .poll s (s.block .flags1 rest)
  | pollIdle (s : State) (hp : s.phase = .ready)
    (hc : s.radio = .receiving ∧ automodeActive Config.params s.nextDraw = false ∨
      s.radio = .sending ∧ automodeActive Config.params s.nextDraw = true) :
    Effect .poll s ((s.completed .flags1).dropDraw.respond [])
  | pollDrain (s : State) (ops : List Transaction) (chip : List Byte) (drawn : Nat) (stalls : List Nat)
    (stored : List Byte) (hp : s.phase = .ready) (hr : s.radio = .receiving)
    (ha : automodeActive Config.params s.nextDraw = true) (hops : readsOnly ops) (hs : storedFrame s stored) :
    Effect .poll s ((push ((s.afterReads ops chip drawn stalls).setArena
      (Memory.writeAll s.arena (slotBase s.wIdx s) stored))).respond [])
  | pollDrainBlock (s : State) (ops : List Transaction) (chip : List Byte) (drawn : Nat) (stalls : List Nat)
    (op : Transaction) (hp : s.phase = .ready) (hr : s.radio = .receiving)
    (ha : automodeActive Config.params s.nextDraw = true) (hops : readsOnly ops) :
    Effect .poll s ((s.afterReads ops chip drawn stalls).block op stalls)
  | pollRearm (s : State) (hp : s.phase = .ready) (hr : s.radio = .sending)
    (ha : automodeActive Config.params s.nextDraw = false) :
    Effect .poll s ((((s.completed .flags1).dropDraw.completedAll (armRxTransactions s.boost)).setRadio
      .receiving).respond [])
  | pollRearmBlock (s : State) (before : List Transaction) (op : Transaction) (after : List Transaction)
    (rest : List Nat) (hp : s.phase = .ready) (hr : s.radio = .sending)
    (ha : automodeActive Config.params s.nextDraw = false) (hops : armRxTransactions s.boost = before ++ op :: after) :
    Effect .poll s (((s.completed .flags1).dropDraw.completedAll before).block op rest)

/-- A SEND command that answers a next state has one of these effects. -/
theorem sendCommon_effect {i : Instr} {vv : Bool} {address : Option Byte} {payload : List Byte} {lengthOk : Bool}
    {s t : State} (hi : i.isSend = true) (hm : mayRaise i s)
    (hx : sendCommon vv address payload lengthOk (encodeWord i) s = .next t) : Effect i s t := by
  obtain ⟨c, rfl⟩ | ⟨h, -, -, -, rfl | ⟨before, op, after, rest, ho, rfl⟩ | ⟨rest, rfl⟩⟩ := sendCommon_cases hx
  · exact .raised _ _ _ hm
  · exact .send _ _ _ hi h
  · exact .sendBlock _ _ _ _ _ _ hi h ho
  · exact .sendBlockWrite _ _ _ _ hi h

/-- Every command that answers a next state has one of these effects. -/
theorem exec_effect {i : Instr} {s t : State} (hx : exec i s = .next t) : Effect i s t := by
  cases i with
  | cfgFrame vl ad =>
    obtain ⟨h, rfl⟩ | ⟨h, rfl | ⟨r, rfl⟩⟩ := execCfgFrame_cases hx
    exacts [.raised _ _ _ h, .frame _ _ _ h, .frameBlock _ _ _ _ h]
  | cfgAes e =>
    obtain ⟨h, rfl⟩ | ⟨h, rfl | ⟨r, rfl⟩⟩ := execCfgAes_cases hx
    exacts [.raised _ _ _ h, .aes _ _ h, .aesBlock _ _ _ h]
  | cfgSlots m =>
    obtain ⟨_, rfl⟩ | ⟨_, _, rfl⟩ | ⟨h, h0, rfl⟩ := execCfgSlots_cases hx
    exacts [.raised _ _ _ trivial, .raised _ _ _ trivial, .slots _ _ h h0]
  | cfgPayload p =>
    obtain ⟨_, rfl⟩ | ⟨h, h0, h1, op, a, hop, rfl, rfl | ⟨r, rfl⟩⟩ := execCfgPayload_cases hx
    exacts [.raised _ _ _ trivial, .payload _ _ _ h h0 h1 hop, .payloadBlock _ _ _ _ h h0 h1 hop]
  | setHighpower => cases hx; exact .highpower _
  | setPower d b =>
    obtain rfl | ⟨_, _, _, _, h, rfl⟩ := execSetPower_cases hx
    exacts [.power .., .powerBlock _ _ _ _ _ _ _ h]
  | receive =>
    obtain ⟨h, rfl⟩ | ⟨h, rfl | ⟨_, _, _, _, h', rfl⟩⟩ := execReceive_cases hx
    exacts [.raised _ _ _ h, .receive _ h, .receiveBlock _ _ _ _ _ h h']
  | poll =>
    obtain ⟨h, rfl⟩ | ⟨h, ⟨r, rfl⟩ | ⟨hc, rfl⟩ |
      ⟨hr, ha, ops, c, d, st, hg, ⟨stored, hst, rfl⟩ | ⟨op, rfl⟩⟩ | ⟨hr, ha, rfl | ⟨_, _, _, _, h', rfl⟩⟩⟩ :=
      execPoll_cases hx
    exacts [.raised _ _ _ h, .pollBlock _ _ h, .pollIdle _ h hc, .pollDrain _ _ _ _ _ _ h hr ha hg hst,
      .pollDrainBlock _ _ _ _ _ _ h hr ha hg, .pollRearm _ h hr ha, .pollRearmBlock _ _ _ _ _ h hr ha h']
  | available => cases hx; exact .available _
  | read =>
    obtain ⟨h, rfl⟩ | ⟨h, d, hd, rfl⟩ := execRead_cases hx
    exacts [.readEmpty _ h, .readFrame _ _ h hd]
  | canSend => cases hx; exact .canSend _
  | send p => exact sendCommon_effect rfl trivial hx
  | sendAddr a p => exact sendCommon_effect rfl trivial hx
  | sendVar p => exact sendCommon_effect rfl trivial hx
  | sendAddrVar a p => exact sendCommon_effect rfl trivial hx

/-! ## One step -/

/-- Everything a step that answers a next state can be: a wait, a reset, an abandoned command, a command, or an illegal
word. -/
theorem step_cases {s t : State} (h : step s = .next t) :
    t = s ∨
      ∃ event rest cursor, s.nextEvent = some (event, rest, cursor) ∧
        (((∀ bytes, event ≠ .command bytes) ∧ t = (s.withPort rest cursor).applyReset) ∨
          (s.fault = none ∧ s.blocked = none ∧
            ((∃ i u, (∃ bytes, event = .abandoned bytes) ∧ offer s = .abandon i (s.withPort rest cursor) ∧
                exec i (s.withPort rest cursor) = .next u ∧ t = u.abandonCommand s.responses) ∨
              ∃ bytes, event = .command bytes ∧
                ((∃ i, decode bytes = .ok i ∧ offer s = .run i (s.withPort rest cursor) ∧
                    exec i (s.withPort rest cursor) = .next t) ∨
                  ∃ w, decode bytes = .error (.illegal w) ∧
                    t = (s.withPort rest cursor).setFault .illegalCommand w)))) := by
  cases he : s.nextEvent with
  | none =>
    simp only [step, offer, he] at h
    exact .inl (Host.Outcome.next.inj h).symm
  | some next =>
    obtain ⟨event, rest, cursor⟩ := next
    have hn : accepting s = true → s.fault = none ∧ s.blocked = none := by simp [accepting]
    cases event with
    | reset =>
      simp only [step, offer, he, offerEvent] at h
      exact .inr ⟨_, _, _, rfl, .inl ⟨by simp, (Host.Outcome.next.inj h).symm⟩⟩
    | abandoned bytes =>
      simp only [step, offer, he, offerEvent] at h ⊢
      by_cases ha : accepting s = true
      · simp only [ha, if_true, takeAbandoned] at h ⊢
        cases hd : decode bytes with
        | ok i =>
          simp only [hd] at h ⊢
          obtain ⟨u, hu, rfl⟩ := abandon_eq_next.mp h
          exact .inr ⟨_, _, _, rfl, .inr ⟨(hn ha).1, (hn ha).2, .inl ⟨i, u, ⟨bytes, rfl⟩, rfl, hu, rfl⟩⟩⟩
        | error e =>
          cases e <;> simp only [hd, reduceCtorEq] at h
          exact .inr ⟨_, _, _, rfl, .inl ⟨by simp, (Host.Outcome.next.inj h).symm⟩⟩
      · rw [if_neg ha] at h
        exact .inr ⟨_, _, _, rfl, .inl ⟨by simp, (Host.Outcome.next.inj h).symm⟩⟩
    | command bytes =>
      simp only [step, offer, he, offerEvent] at h ⊢
      by_cases ha : accepting s = true
      · simp only [ha, if_true, takeCommand] at h ⊢
        refine .inr ⟨_, _, _, rfl, .inr ⟨(hn ha).1, (hn ha).2, .inr ⟨bytes, rfl, ?_⟩⟩⟩
        cases hd : decode bytes with
        | ok i =>
          simp only [hd] at h
          exact .inl ⟨i, rfl, rfl, h⟩
        | error e =>
          cases e <;> simp only [hd, raiseFault, reduceCtorEq] at h
          exact .inr ⟨_, rfl, (Host.Outcome.next.inj h).symm⟩
      · rw [if_neg ha] at h
        exact .inl (Host.Outcome.next.inj h).symm

end Sys2Proof.Machine
end

