-- ==== Sys2Proof/Laws/PerInstr.lean ====
section
/-! SUPPORT. Facts about each instruction as syntax, one lemma per constructor: its word selects its own row of the
opcode map, and the word asks for as many data bytes as the instruction has (30_encoding.md R82, R87). -/

namespace Sys2Proof

/-- The row an instruction belongs to (30_encoding.md R87). -/
def Instr.opcode : Instr → Opcode
  | .cfgFrame _ _ => .cfgFrame
  | .cfgAes _ => .cfgAes
  | .cfgSlots _ => .cfgSlots
  | .cfgPayload _ => .cfgPayload
  | .setHighpower => .setHighpower
  | .setPower _ _ => .setPower
  | .receive => .receive
  | .poll => .poll
  | .available => .available
  | .read => .read
  | .canSend => .canSend
  | .send _ => .send
  | .sendAddr _ _ => .sendAddr
  | .sendVar _ => .sendVar
  | .sendAddrVar _ _ => .sendAddrVar

/-! ## The words of the operand-carrying rows, for every operand -/

theorem classify_slots_word : ∀ n : Byte, classify (0x3000#16 ||| immediate n) = .row .cfgSlots := by decide
theorem classify_payload_word : ∀ n : Byte, classify (0x4000#16 ||| immediate n) = .row .cfgPayload := by decide
theorem classify_power_word : ∀ (n : Byte) (b : Bool),
    classify (0x6000#16 ||| flagAt b 8 ||| immediate n) = .row .setPower := by decide
theorem classify_send_word : ∀ n : Byte, classify (0xC000#16 ||| immediate n) = .row .send := by decide
theorem classify_sendAddr_word : ∀ n : Byte, classify (0xC100#16 ||| immediate n) = .row .sendAddr := by decide
theorem classify_sendVar_word : ∀ n : Byte, classify (0xC200#16 ||| immediate n) = .row .sendVar := by decide
theorem classify_sendAddrVar_word : ∀ n : Byte, classify (0xC300#16 ||| immediate n) = .row .sendAddrVar := by decide

theorem dataLength_slots_word : ∀ n : Byte, dataLength (0x3000#16 ||| immediate n) = 0 := by decide
theorem dataLength_payload_word : ∀ n : Byte, dataLength (0x4000#16 ||| immediate n) = 0 := by decide
theorem dataLength_power_word : ∀ (n : Byte) (b : Bool),
    dataLength (0x6000#16 ||| flagAt b 8 ||| immediate n) = 0 := by decide
theorem dataLength_send_word : ∀ n : Byte, dataLength (0xC000#16 ||| immediate n) = n.toNat := by decide
theorem dataLength_sendAddr_word : ∀ n : Byte, dataLength (0xC100#16 ||| immediate n) = n.toNat + 1 := by decide
theorem dataLength_sendVar_word : ∀ n : Byte, dataLength (0xC200#16 ||| immediate n) = n.toNat := by decide
theorem dataLength_sendAddrVar_word : ∀ n : Byte, dataLength (0xC300#16 ||| immediate n) = n.toNat + 1 := by decide

/-- A payload that fits has its length as the IMM byte (30_encoding.md R82). -/
theorem lengthImmediate_toNat {payload : List Byte} (h : payloadFits payload = true) :
    (BitVec.ofNat 8 payload.length).toNat = payload.length := by
  have h : payload.length ≤ 255 := by simpa [payloadFits] using h
  simp only [BitVec.toNat_ofNat]
  omega

end Sys2Proof

/-! ## The word of an instruction selects its row -/

namespace Sys2Proof.Laws.SelectsRow

/-- The word of an instruction is a word of its own row (30_encoding.md R87). -/
def Statement (i : Instr) : Prop := classify (encodeWord i) = .row i.opcode

theorem cfgFrame (vl ad : Bool) : Statement (.cfgFrame vl ad) := by revert vl ad; unfold Statement; decide
theorem cfgAes (e : Bool) : Statement (.cfgAes e) := by revert e; unfold Statement; decide
theorem cfgSlots (nReq : Byte) : Statement (.cfgSlots nReq) := classify_slots_word nReq
theorem cfgPayload (pReq : Byte) : Statement (.cfgPayload pReq) := classify_payload_word pReq
theorem setHighpower : Statement .setHighpower := by unfold Statement; decide
theorem setPower (dbm : Byte) (b : Bool) : Statement (.setPower dbm b) := classify_power_word dbm b
theorem receive : Statement .receive := by unfold Statement; decide
theorem poll : Statement .poll := by unfold Statement; decide
theorem available : Statement .available := by unfold Statement; decide
theorem read : Statement .read := by unfold Statement; decide
theorem canSend : Statement .canSend := by unfold Statement; decide
theorem send (payload : List Byte) : Statement (.send payload) := classify_send_word _
theorem sendAddr (address : Byte) (payload : List Byte) : Statement (.sendAddr address payload) :=
  classify_sendAddr_word _
theorem sendVar (payload : List Byte) : Statement (.sendVar payload) := classify_sendVar_word _
theorem sendAddrVar (address : Byte) (payload : List Byte) : Statement (.sendAddrVar address payload) :=
  classify_sendAddrVar_word _

end Sys2Proof.Laws.SelectsRow

/-! ## The word of an instruction asks for its data bytes -/

namespace Sys2Proof.Laws.DataPhase

/-- The word of a well-formed instruction gives the length of its data phase (30_encoding.md R82). -/
def Statement (i : Instr) : Prop := i.wellFormed = true → dataLength (encodeWord i) = (encodeData i).length

theorem cfgFrame (vl ad : Bool) : Statement (.cfgFrame vl ad) := by revert vl ad; unfold Statement; decide
theorem cfgAes (e : Bool) : Statement (.cfgAes e) := by revert e; unfold Statement; decide
theorem cfgSlots (nReq : Byte) : Statement (.cfgSlots nReq) := fun _ => dataLength_slots_word nReq
theorem cfgPayload (pReq : Byte) : Statement (.cfgPayload pReq) := fun _ => dataLength_payload_word pReq
theorem setHighpower : Statement .setHighpower := by unfold Statement; decide
theorem setPower (dbm : Byte) (b : Bool) : Statement (.setPower dbm b) := fun _ => dataLength_power_word dbm b
theorem receive : Statement .receive := by unfold Statement; decide
theorem poll : Statement .poll := by unfold Statement; decide
theorem available : Statement .available := by unfold Statement; decide
theorem read : Statement .read := by unfold Statement; decide
theorem canSend : Statement .canSend := by unfold Statement; decide
theorem send (payload : List Byte) : Statement (.send payload) := fun h =>
  (dataLength_send_word _).trans (lengthImmediate_toNat h)
theorem sendAddr (address : Byte) (payload : List Byte) : Statement (.sendAddr address payload) := fun h => by
  rw [show (encodeData (.sendAddr address payload)).length = payload.length + 1 from rfl,
    ← lengthImmediate_toNat (payload := payload) h]
  exact dataLength_sendAddr_word _
theorem sendVar (payload : List Byte) : Statement (.sendVar payload) := fun h =>
  (dataLength_sendVar_word _).trans (lengthImmediate_toNat h)
theorem sendAddrVar (address : Byte) (payload : List Byte) : Statement (.sendAddrVar address payload) := fun h => by
  rw [show (encodeData (.sendAddrVar address payload)).length = payload.length + 1 from rfl,
    ← lengthImmediate_toNat (payload := payload) h]
  exact dataLength_sendAddrVar_word _

end Sys2Proof.Laws.DataPhase
end

