-- ==== Sys2Proof/Tests/Slice0.lean ====
section
/-! SUPPORT. Tests: ill-formed terms, words written out from the spec's encodings, single steps from the spec's test
vectors (95_test_vectors.md), and a witness for the hypotheses of every statement. -/

open Sys2Proof Sys2Proof.Machine Sys2Proof.Claims

namespace Sys2Proof.Tests

/-! ## Helpers -/

/-- The outcome is a next state with this property. -/
def after (o : Host.Outcome State Fault Refusal) (p : State → Bool) : Bool :=
  match o with
  | .next s => p s
  | .fault _ => false
  | .refused _ => false

/-- The next state, or the given one where there is none. -/
def nextOr (d : State) (o : Host.Outcome State Fault Refusal) : State :=
  match o with
  | .next s => s
  | .fault _ => d
  | .refused _ => d

/-- The parameters of the vectors: ARENA_BYTES = 4096, AM_BIT = 1 (95_test_vectors.md, conventions). -/
def vectorParams : Params := ⟨4096, 1⟩

/-- SIZED, as after CFG_FRAME vl, ad and CFG_SLOTS n from reset. -/
def sizedState (vl ad : Bool) (n : Byte) : State := { State.reset with vl := vl, ad := ad, n := n, phase := .sized }

/-- READY, as after CONFIG vl, ad, n, p from reset, with PC and C written out. -/
def readyState (vl ad : Bool) (n : Byte) (p pc c : BitVec 7) : State :=
  { State.reset with vl := vl, ad := ad, n := n, pUser := p, pc := pc, c := c, phase := .ready }

/-- The start state "R" of L2-3: CONFIG 0,0,4,2. -/
def stateR : State := readyState false false 4#8 2#7 2#7 2#7

/-- The trace of reception armed without boost. -/
def rxArmed : List Transaction := [rxMode, .opMode .receiver]

/-! ## WellFormed refuses ill-formed terms (30_encoding.md R82, R94: a byte list longer than 255) -/

theorem test_send_256_ill_formed : (Instr.send (List.replicate 256 0x00#8)).wellFormed = false := by
  simp only [Instr.wellFormed, payloadFits, List.length_replicate]
  decide
theorem test_sendAddr_256_ill_formed : (Instr.sendAddr 0x07#8 (List.replicate 256 0x00#8)).wellFormed = false := by
  simp only [Instr.wellFormed, payloadFits, List.length_replicate]
  decide
theorem test_sendVar_256_ill_formed : (Instr.sendVar (List.replicate 256 0x00#8)).wellFormed = false := by
  simp only [Instr.wellFormed, payloadFits, List.length_replicate]
  decide
theorem test_sendAddrVar_256_ill_formed :
    (Instr.sendAddrVar 0x07#8 (List.replicate 256 0x00#8)).wellFormed = false := by
  simp only [Instr.wellFormed, payloadFits, List.length_replicate]
  decide

/-! ## Decoding: words written out from 30_encoding.md R80, R82, R86, R87 (95_test_vectors.md L2-1) -/

theorem test_decode_cfgFrame : decode [0x13#8, 0x00#8] = .ok (.cfgFrame true true) ∧
    decode [0x12#8, 0x00#8] = .ok (.cfgFrame true false) ∧ decode [0x11#8, 0x00#8] = .ok (.cfgFrame false true) := by
  decide
theorem test_decode_cfgAes : decode [0x21#8, 0x00#8] = .ok (.cfgAes true) := by decide
theorem test_decode_cfgSlots : decode [0x30#8, 0xFF#8] = .ok (.cfgSlots 255#8) := by decide
theorem test_decode_cfgPayload : decode [0x40#8, 0x40#8] = .ok (.cfgPayload 64#8) := by decide
theorem test_decode_setHighpower : decode [0x50#8, 0x00#8] = .ok .setHighpower := by decide
theorem test_decode_setPower : decode [0x60#8, 0xE2#8] = .ok (.setPower (BitVec.ofInt 8 (-30)) false) ∧
    decode [0x61#8, 0x80#8] = .ok (.setPower (BitVec.ofInt 8 (-128)) true) := by decide
theorem test_decode_receive : decode [0x70#8, 0x00#8] = .ok .receive := by decide
theorem test_decode_poll : decode [0x80#8, 0x00#8] = .ok .poll := by decide
theorem test_decode_available : decode [0x90#8, 0x00#8] = .ok .available := by decide
theorem test_decode_read : decode [0xA0#8, 0x00#8] = .ok .read := by decide
theorem test_decode_canSend : decode [0xB0#8, 0x00#8] = .ok .canSend := by decide
theorem test_decode_send : decode [0xC0#8, 0x00#8] = .ok (.send []) ∧
    decode [0xC0#8, 0x02#8, 0x01#8, 0x02#8] = .ok (.send [0x01#8, 0x02#8]) := by decide
theorem test_decode_sendAddr : decode [0xC1#8, 0x04#8, 0x2A#8, 0x01#8, 0x02#8, 0x03#8, 0x04#8] =
    .ok (.sendAddr 0x2A#8 [0x01#8, 0x02#8, 0x03#8, 0x04#8]) := by decide
theorem test_decode_sendVar : decode [0xC2#8, 0x05#8, 0x0A#8, 0x0B#8, 0x0C#8, 0x0D#8, 0x0E#8] =
    .ok (.sendVar [0x0A#8, 0x0B#8, 0x0C#8, 0x0D#8, 0x0E#8]) := by decide
theorem test_decode_sendAddrVar : decode [0xC3#8, 0x02#8, 0x07#8, 0xAA#8, 0xBB#8] =
    .ok (.sendAddrVar 0x07#8 [0xAA#8, 0xBB#8]) := by decide

/-- Reserved bits and opcodes are illegal (30_encoding.md R88, R89; L2-1). -/
theorem test_decode_illegal :
    [0x0000#16, 0x1400#16, 0x1001#16, 0x2200#16, 0x5001#16, 0x6219#16, 0x7100#16, 0xB0FF#16, 0xC400#16, 0xCC00#16,
      0xF000#16, 0xFFFF#16].all (fun w => decide (classify w = .illegal)) = true := by decide

/-- OPC 0xD and 0xE are out of scope, not illegal (30_encoding.md R91; L2-1). -/
theorem test_decode_out_of_scope : decode [0xD1#8, 0x23#8] = .error (.outOfScope 0xD123#16) ∧
    decode [0xE0#8, 0x00#8] = .error (.outOfScope 0xE000#16) := by decide

/-- Data phases of the wrong length are no command (30_encoding.md R83; L2-1: C003 with 2 data bytes). -/
theorem test_decode_ill_formed : decode [0xC0#8, 0x03#8, 0x01#8, 0x02#8] = .error .illFormed ∧
    decode [0x80#8, 0x00#8, 0x01#8] = .error .illFormed ∧ decode [0x80#8] = .error .illFormed := by decide

/-- A table word of SEND_ADDR with no operand bits in it stands for an address and a payload of zeros. -/
theorem test_table_word : decodeTableWord 16 0xC102 = some (.sendAddr 0x00#8 [0x00#8, 0x00#8]) ∧
    decodeTableWord 32 0xBBAAC002 = some (.send [0xAA#8, 0xBB#8]) := by decide

/-! ## Single steps (95_test_vectors.md) -/

/-- L2-2: CFG_FRAME 1,0 from reset; and in SIZED its fault (2, 1200). -/
theorem test_cfgFrame : after (exec (.cfgFrame true false) State.reset) (fun t =>
    t.vl && !t.ad && t.trace == [.cfgFrame true false]) = true := by decide
theorem test_cfgFrame_sized : after (exec (.cfgFrame true false) (sizedState false false 4#8)) (fun t =>
    t.fault == some ⟨.configOrder, 0x1200#16⟩ && !t.vl && t.responses == [] && t.trace == []) = true := by decide

/-- L2-2: CFG_AES 1 from reset. -/
theorem test_cfgAes : after (exec (.cfgAes true) State.reset) (fun t =>
    t.aes && t.trace == [.cfgAes true] && t.responses == [[]]) = true := by decide

/-- L2-2: CFG_SLOTS 0 faults (3, 3000); CFG_SLOTS 2 in SIZED replaces N. -/
theorem test_cfgSlots_zero : after (exec (.cfgSlots 0#8) State.reset) (fun t =>
    t.fault == some ⟨.badOperand, 0x3000#16⟩ && t.n == 0#8 && t.phase == .opened) = true := by decide
theorem test_cfgSlots_again : after (exec (.cfgSlots 2#8) (sizedState false false 4#8)) (fun t =>
    t.n == 2#8 && t.phase == .sized && t.trace == []) = true := by decide

/-- L2-2: 255 slots of 67 bytes need 17085 bytes: they overflow 4096 and fit 17085. -/
theorem test_cfgPayload_overflow : after (execCfgPayloadWith vectorParams 64#8 (sizedState true true 255#8)) (fun t =>
    t.fault == some ⟨.arenaOverflow, 0x4040#16⟩ && t.phase == .sized) = true := by decide
theorem test_cfgPayload_fits : after (execCfgPayloadWith ⟨17085, 1⟩ 64#8 (sizedState true true 255#8)) (fun t =>
    t.phase == .ready && t.pc == 66#7 && t.c == 67#7 && t.pUser == 64#7 && t.trace == [.cfgLen 66#7]) = true := by
  decide

/-- 44_power.md R200's example. -/
theorem test_setHighpower : after (exec .setHighpower State.reset) (fun t =>
    t.hp == .highPower && !t.boost && t.trace == []) = true := by decide

/-- L1-6: HighPower, SET_POWER 25, 1. -/
theorem test_setPower_boost : after (exec (.setPower 0x19#8 true) { State.reset with hp := .highPower }) (fun t =>
    t.boost && t.trace == [.ocpOff, .paLevel .s1s2 31#5]) = true := by decide
/-- L2-6: Standard, SET_POWER 20, 1 writes no OCP. -/
theorem test_setPower_standard : after (exec (.setPower 0x14#8 true) State.reset) (fun t =>
    !t.boost && t.trace == [.paLevel .s0 31#5]) = true := by decide

/-- L2-3: RECEIVE with BOOST 1. -/
theorem test_receive_boost : after (exec .receive { stateR with boost := true, radio := .sending }) (fun t =>
    t.radio == .receiving && t.trace == [rxMode, .boost1 .off, .boost2 .off, .opMode .receiver]) = true := by decide
/-- L2-3: RECEIVE before the slots are allocated. -/
theorem test_receive_not_ready : after (exec .receive State.reset) (fun t =>
    t.fault == some ⟨.notReady, 0x7000#16⟩ && t.responses == []) = true := by decide

/-- L3-2 step 6: the length 0xC8 is clamped to C - 1 = 6, the frame goes to slot 1, w_idx wraps to 0. -/
theorem test_poll_drain : after (execPollWith vectorParams { readyState true true 2#8 4#7 6#7 7#7 with
    wIdx := 1#8, chipBytes := [0x02#8, 0xC8#8, 0x09#8, 1#8, 2#8, 3#8, 4#8, 5#8, 0x77#8] }) (fun t =>
    t.wIdx == 0#8 && t.trace == [.flags1, .fifoRead 1, .fifoRead 6] && t.chipBytes == [0x77#8] &&
      t.arena == [(7, 0x06#8), (8, 0x09#8), (9, 1#8), (10, 2#8), (11, 3#8), (12, 4#8), (13, 5#8)]) = true := by decide
/-- L2-3: Sending, flags FD: reception is armed again. -/
theorem test_poll_rearm : after (execPollWith vectorParams { stateR with radio := .sending, chipBytes := [0xFD#8] })
    (fun t => t.radio == .receiving && t.trace == .flags1 :: rxArmed) = true := by decide

/-- L2-4: AVAILABLE at reset, and with one frame pending. -/
theorem test_available : after (exec .available State.reset) (fun t => t.responses == [[0x00#8]]) = true ∧
    after (exec .available { stateR with wIdx := 1#8 }) (fun t => t.responses == [[0x01#8]]) = true := by decide

/-- L3-2 step 11: the address byte stays, the length byte is not data, r_idx advances. -/
theorem test_read_variable : after (execReadWith vectorParams { readyState true true 2#8 4#7 6#7 7#7 with
    wIdx := 1#8, arena := [(0, 0x02#8), (1, 0x05#8), (2, 0xEE#8), (3, 0xBB#8)] }) (fun t =>
    t.responses == [[0x02#8, 0x05#8, 0xEE#8]] && t.rIdx == 1#8) = true := by decide
/-- L2-4: READ of an empty buffer, in every phase. -/
theorem test_read_empty : after (execReadWith vectorParams State.reset) (fun t =>
    t.responses == [[0x00#8]] && t.rIdx == 0#8) = true := by decide

/-- L1-7, L2-3: CAN_SEND at reset and while Sending. -/
theorem test_canSend : after (exec .canSend State.reset) (fun t => t.responses == [[0x01#8]]) = true ∧
    after (exec .canSend { stateR with radio := .sending }) (fun t => t.responses == [[0x00#8]]) = true := by decide

/-- L2-3: SEND [01,02] with BOOST 1. -/
theorem test_send_boost : after (exec (.send [1#8, 2#8]) { stateR with boost := true }) (fun t =>
    t.radio == .sending &&
      t.trace == [.opMode .standby, txMode, .boost1 .on, .boost2 .on, .fifoWrite [1#8, 2#8]]) = true := by decide
/-- L2-3: SEND [01] with P_user = 2 faults (6, C001). -/
theorem test_send_length : after (exec (.send [1#8]) stateR) (fun t =>
    t.fault == some ⟨.lengthMismatch, 0xC001#16⟩ && t.radio == .receiving && t.trace == []) = true := by decide

/-- L1-5: the frame of SEND_ADDR. -/
theorem test_sendAddr : after (exec (.sendAddr 0x2A#8 [1#8, 2#8, 3#8, 4#8]) (readyState false true 4#8 4#7 5#7 5#7))
    (fun t => t.trace == [.opMode .standby, txMode, .fifoWrite [0x2A#8, 1#8, 2#8, 3#8, 4#8]]) = true := by decide
/-- L2-7: SEND_ADDR in layout (0,0) faults (5, C102). -/
theorem test_sendAddr_layout : after (exec (.sendAddr 0x01#8 [1#8, 2#8]) stateR) (fun t =>
    t.fault == some ⟨.layoutMismatch, 0xC102#16⟩ && t.radio == .receiving && t.trace == []) = true := by decide

/-- L2-3: the layout is checked before the length; and an empty SEND_VAR sends one zero byte. -/
theorem test_sendVar_layout : after (exec (.sendVar [1#8, 2#8]) stateR) (fun t =>
    t.fault == some ⟨.layoutMismatch, 0xC202#16⟩) = true := by decide
theorem test_sendVar_empty : after (exec (.sendVar []) (readyState true false 4#8 4#7 5#7 6#7)) (fun t =>
    t.trace == [.opMode .standby, txMode, .fifoWrite [0x00#8]]) = true := by decide

/-- L2-3: SEND_ADDR_VAR with n = 255 faults (6, C3FF); its length byte counts the address (41_state_machine.md R139). -/
theorem test_sendAddrVar_length (payload : List Byte) (h : payload.length = 255) :
    exec (.sendAddrVar 0x07#8 payload) (readyState true true 4#8 4#7 6#7 7#7) =
      .next { readyState true true 4#8 4#7 6#7 7#7 with fault := some ⟨.lengthMismatch, 0xC3FF#16⟩ } := by
  simp [exec, execSendAddrVar, sendCommon, readyState, addressedLengthRule, payloadLength, h, raiseFault,
    State.setFault, encodeWord, lengthImmediate, immediate]
theorem test_sendAddrVar_frame : after (exec (.sendAddrVar 0x07#8 [0xAA#8, 0xBB#8])
    (readyState true true 2#8 4#7 6#7 7#7)) (fun t =>
    t.trace == [.opMode .standby, txMode, .fifoWrite [0x03#8, 0x07#8, 0xAA#8, 0xBB#8]]) = true := by decide

/-- L2-7: an illegal word at reset, through the port. -/
theorem test_step_illegal : after (step { State.reset with port := [.command [0x00#8, 0x00#8], .command [0x90#8, 0x00#8]] })
    (fun t => t.fault == some ⟨.illegalCommand, 0x0000#16⟩ && t.port == [.command [0x90#8, 0x00#8]] &&
      after (step t) (fun u => u == t)) = true := by decide

/-- 70_reset_and_hazards.md R250: reset after the FIFO write of a SEND and before its response; and in a stall. -/
theorem test_step_abandoned :
    after (step { stateR with port := [.abandoned [0xC0#8, 0x02#8, 1#8, 2#8]] }) (fun t => t.phase == .opened &&
      t.radio == .receiving && t.responses == [] && t.trace == [.opMode .standby, txMode, .fifoWrite [1#8, 2#8]]) =
        true ∧
    after (step { stateR with port := [.abandoned [0x70#8, 0x00#8]], stalls := [1] }) (fun t =>
      t.blocked == none && t.trace == [rxMode]) = true := by decide

/-- A table word runs as the first instruction after reset. -/
theorem test_withFetchWord : after (step (State.reset.withFetchWord 16 0x2100)) (fun t => t.aes && t.port == []) = true := by
  decide

/-! ## Witnesses: states and operands that meet each statement's hypotheses -/

/-- Whatever AM_BIT is, the flags byte FF has it set and 00 has it clear. -/
theorem test_flag_set (k : Fin 8) : (0xFF#8).getLsbD k.val = true := by revert k; decide
theorem test_flag_clear (k : Fin 8) : (0x00#8).getLsbD k.val = false := by revert k; decide

theorem test_automode_set (k : Params) : automodeActive k 0xFF#8 = true := test_flag_set k.amBit
theorem test_automode_clear (k : Params) : automodeActive k 0x00#8 = false := test_flag_clear k.amBit

/-- Whatever ARENA_BYTES is, up to 67 bytes fit (00_scope.md R9). -/
theorem test_arena_fits {m : Nat} (h : m ≤ 67) : m ≤ Config.params.arenaBytes :=
  Nat.le_trans h (Nat.le_add_left 67 Config.arenaExtra)

/-- READY, fixed length, N = 2, one byte a slot; chip answers to come. -/
def fixedReceiver (chip : List Byte) : State := { readyState false false 2#8 1#7 1#7 1#7 with chipBytes := chip }

/-- READY, variable length, N = 2, P_user = 4. -/
def variableReceiver (chip : List Byte) : State := { readyState true false 2#8 4#7 5#7 6#7 with chipBytes := chip }

/-- One frame 41 pending. -/
def pendingFixed : State := { fixedReceiver [] with wIdx := 1#8, arena := [(0, 0x41#8)] }

/-- One frame pending of length 5 = PC. -/
def pendingVariable : State := { variableReceiver [] with
  wIdx := 1#8, arena := [(0, 0x05#8), (1, 1#8), (2, 2#8), (3, 3#8), (4, 4#8), (5, 5#8)] }

/-- The command as its bytes on the link. -/
def presented (bytes : List Byte) (s : State) : State := { s with port := [.command bytes] }

theorem test_inv_fixed (chip : List Byte) : CoreInv Config.params (fixedReceiver chip) where
  idle := by simp [fixedReceiver, readyState]
  sized := by simp [fixedReceiver, readyState]
  slotCount := by simp [fixedReceiver, readyState]
  indices := by simp [fixedReceiver, readyState, State.reset]
  userCapacity := by simp [fixedReceiver, readyState]
  capacity := by simp [fixedReceiver, readyState]
  slot := by simp [fixedReceiver, readyState]
  fits := fun _ => test_arena_fits (m := 2) (by decide)
  standard := by simp [fixedReceiver, readyState, State.reset]

theorem test_inv_variable (chip : List Byte) : CoreInv Config.params (variableReceiver chip) where
  idle := by simp [variableReceiver, readyState]
  sized := by simp [variableReceiver, readyState]
  slotCount := by simp [variableReceiver, readyState]
  indices := by simp [variableReceiver, readyState, State.reset]
  userCapacity := by simp [variableReceiver, readyState]
  capacity := by simp [variableReceiver, readyState]
  slot := by simp [variableReceiver, readyState]
  fits := fun _ => test_arena_fits (m := 12) (by decide)
  standard := by simp [variableReceiver, readyState, State.reset]

theorem test_inv_pending : CoreInv Config.params pendingFixed :=
  { test_inv_fixed [] with
    idle := by simp [pendingFixed, fixedReceiver, readyState]
    indices := by simp [pendingFixed, fixedReceiver, readyState, State.reset] }

theorem test_filled_pending : SlotsFilled pendingFixed := by
  intro j hj
  have h0 : j = 0 := by
    have : pendingCount pendingFixed = 1 := by decide
    omega
  subst h0
  intro i hi
  have : i = 0 := by
    have : (pendingFixed.pc).toNat = 1 := by decide
    omega
  subst this
  decide

/-! ### Encoding and port -/

theorem test_witness_decodeOfEncode : (Instr.sendAddrVar 0xFF#8 (List.replicate 255 0xEE#8)).wellFormed = true := by
  simp only [Instr.wellFormed, payloadFits, List.length_replicate]
  decide
theorem test_witness_decodedBytes : decode [0xC2#8, 0x01#8, 0xFF#8] = .ok (.sendVar [0xFF#8]) := by decide
theorem test_witness_rows : 0x13FF#16 &&& 0xFF00#16 = 0x1300#16 ∧
    0xC3FF#16 &&& (printedRows[14]'(by decide)).2 = (printedRows[14]'(by decide)).1 := by decide
theorem test_witness_step : acceptsCommands (presented [0x80#8, 0x00#8] State.reset) ∧
    decode [0x80#8, 0x00#8] = .ok .poll := by unfold acceptsCommands; decide
theorem test_witness_illegal : acceptsCommands (presented (onLink 0xC401#16 [0x55#8]) State.reset) ∧
    [0x55#8].length = dataBytesOf 0xC401#16 ∧ matchesNoRow 0xC401#16 ∧
    (0xC401#16 : CommandWord).extractLsb' 12 4 ≠ 0xD#4 ∧ (0xC401#16 : CommandWord).extractLsb' 12 4 ≠ 0xE#4 := by
  refine ⟨⟨rfl, rfl⟩, by decide, ?_, by decide, by decide⟩
  simp [matchesNoRow, printedRows]
theorem test_witness_illegal_no_data : matchesNoRow 0x0000#16 ∧ 0 = dataBytesOf 0x0000#16 ∧
    matchesNoRow 0xFFFF#16 ∧ 0 = dataBytesOf 0xFFFF#16 := by
  simp [matchesNoRow, printedRows, dataBytesOf]
theorem test_witness_refused : acceptsCommands (presented (onLink 0xE0FF#16 []) State.reset) ∧
    (0xD000#16 : CommandWord).extractLsb' 12 4 = 0xD#4 ∧ (0xE0FF#16 : CommandWord).extractLsb' 12 4 = 0xE#4 ∧
    acceptsCommands (presented (onLink 0xC100#16 [0x01#8, 0x02#8]) State.reset) ∧
    [0x01#8, 0x02#8].length ≠ dataBytesOf 0xC100#16 ∧ [0x01#8].length ≠ dataBytesOf 0xC002#16 ∧
    [0x01#8].length ≠ dataBytesOf 0x0000#16 ∧ [0x01#8].length ≠ dataBytesOf 0xD000#16 := by
  unfold acceptsCommands; decide
theorem test_witness_waits :
    (∃ s : State, s.fault ≠ none ∧ ¬ resetComes s) ∧ (∃ s : State, s.blocked ≠ none ∧ ¬ resetComes s) ∧
    ∃ s : State, (s.port = [] ∧ s.hostCursor = none) ∧ ¬ resetComes s :=
  ⟨⟨State.setFault .notReady 0x8000#16 State.reset, by simp, by simp [resetComes, hostPresents, State.reset]⟩,
    ⟨State.block .flags1 [] State.reset, by simp, by simp [resetComes, hostPresents, State.reset]⟩,
    ⟨State.reset, ⟨rfl, rfl⟩, by simp [resetComes, hostPresents, State.reset]⟩⟩
/-- The event listed first is presented first, and after the last listed one those of a host without end follow. -/
theorem test_witness_presented (event : HostEvent) (k : Nat) :
    hostPresents { State.reset with port := [event] } event [] none ∧
    hostPresents { State.reset with hostCursor := some k } (Config.hostEvent k) [] (some (k + 1)) :=
  ⟨.inl ⟨rfl, rfl⟩, .inr ⟨rfl, rfl, k, rfl, rfl, rfl⟩⟩
/-- A host without end in front of a faulted CORE: every event of it has a next state. -/
theorem test_witness_withoutEnd : ∃ s t : State, s.port = [] ∧ s.hostCursor = some 0 ∧ step s = .next t := by
  refine ⟨{ State.setFault .notReady 0x8000#16 State.reset with hostCursor := some 0 }, ?_⟩
  cases h : Config.hostEvent 0 <;>
    simp [step, offer, offerEvent, State.nextEvent, State.setFault, State.reset, accepting, h]
/-- The same CORE and a command of it: the command stays, and a reset listed in front of it is taken. -/
theorem test_step_without_end : after (step { State.setFault .notReady 0x8000#16 State.reset with
    port := [.reset], hostCursor := some 7 }) (fun t => t.fault == none && t.port == [] && t.hostCursor == some 7) =
      true := by decide
theorem test_witness_reset : ∃ s : State, s.fault ≠ none ∧ s.port = [.reset, .command [0x90#8, 0x00#8]] :=
  ⟨{ State.setFault .notReady 0x8000#16 State.reset with port := [.reset, .command [0x90#8, 0x00#8]] }, by simp, rfl⟩

theorem test_witness_abandoned :
    (acceptsCommands { stateR with port := [.abandoned [0x70#8, 0x00#8]] } ∧
      decode [0x70#8, 0x00#8] = .ok .receive ∧ after (exec .receive stateR) (fun t => t.responses == [[]]) = true) ∧
    ¬ acceptsCommands (State.setFault .notReady 0x8000#16 State.reset) ∧
    decode [0x00#8, 0x00#8] = .error (.illegal 0x0000#16) ∧ decode [0xE0#8, 0xFF#8] = .error (.outOfScope 0xE0FF#16) ∧
    decode [0x80#8] = .error .illFormed := by unfold acceptsCommands; decide

/-! ### Faults -/

theorem test_witness_tableFault :
    tableFault .poll State.reset = some .notReady ∧ tableFault (.cfgPayload 65#8) (sizedState true true 4#8) =
      some .badOperand ∧ tableFault (.send [1#8]) stateR = some .lengthMismatch ∧
    tableFault .poll stateR = none := by decide
theorem test_witness_tableFault_length (n : Nat) (h : n = 254 ∨ n = 255) :
    tableFault (.sendAddrVar 1#8 (List.replicate n 0#8)) (readyState true true 2#8 4#7 6#7 7#7) =
      if n = 255 then some .lengthMismatch else none := by
  simp only [tableFault, List.length_replicate]
  obtain rfl | rfl := h <;> decide
theorem test_witness_precise : State.reset.fault = none ∧
    after (exec .poll State.reset) (fun t => t.fault != none) = true := by decide
theorem test_witness_chip : State.reset.fault = none ∧
    after (exec .receive State.reset) (fun t => t == faulted .notReady .receive State.reset) = true := by decide
theorem test_witness_stall : after (exec .receive { stateR with stalls := [1] }) (fun t =>
    t.blocked == some (.opMode .receiver) && t.trace == [rxMode] && t.responses == []) = true := by decide
/-- A stall in the one transaction of a configuration command comes after its writes (40_configuration.md R110, R112,
R116). -/
theorem test_witness_stall_configuration :
    after (exec (.cfgFrame true true) { State.reset with stalls := [0] }) (fun t =>
      t.blocked == some (.cfgFrame true true) && t.vl && t.ad && t.trace == []) = true ∧
    after (exec (.cfgAes true) { State.reset with stalls := [0] }) (fun t => t.blocked == some (.cfgAes true) && t.aes) =
      true ∧
    (sizedState true true 1#8).n.toNat * (64 + 1 + 1 + 1) ≤ Config.params.arenaBytes ∧
    after (execCfgPayloadWith vectorParams 64#8 { sizedState true true 1#8 with stalls := [0] }) (fun t =>
      t.blocked == some (.cfgLen 66#7) && t.phase == .ready && t.c == 67#7) = true :=
  ⟨by decide, by decide, test_arena_fits (by decide), by decide⟩
/-- BOOST is not written before the level is set (44_power.md R203). -/
theorem test_witness_stall_power :
    after (exec (.setPower 0x14#8 true) { stateR with hp := .highPower, stalls := [1] }) (fun t =>
      t.blocked == some (.paLevel .s1s2 31#5) && t.trace == [.ocpOff] && !t.boost) = true ∧
    after (exec (.setPower 0x14#8 true) { stateR with stalls := [0] }) (fun t =>
      t.blocked == some (.paLevel .s0 31#5)) = true := by decide
/-- `state` is written before the FIFO write, and not before the transaction ahead of it (41_state_machine.md R134). -/
theorem test_witness_stall_send :
    after (exec (.send [1#8, 2#8]) { stateR with boost := true, stalls := [4] }) (fun t =>
      t.blocked == some (.fifoWrite [1#8, 2#8]) && t.radio == .sending && t.responses == []) = true ∧
    after (exec (.send [1#8, 2#8]) { stateR with boost := true, stalls := [3] }) (fun t =>
      t.blocked == some (.boost2 .on) && t.radio == .receiving) = true := by decide
theorem test_witness_stall_sends :
    after (exec (.sendAddr 7#8 [1#8, 2#8, 3#8, 4#8]) { readyState false true 4#8 4#7 5#7 5#7 with stalls := [2] })
      (fun t => t.blocked == some (.fifoWrite [7#8, 1#8, 2#8, 3#8, 4#8])) = true ∧
    after (exec (.sendVar [9#8]) { readyState true false 4#8 4#7 5#7 6#7 with stalls := [2] })
      (fun t => t.blocked == some (.fifoWrite [1#8, 9#8])) = true ∧
    after (exec (.sendAddrVar 7#8 [9#8]) { readyState true true 4#8 4#7 6#7 7#7 with stalls := [2] })
      (fun t => t.blocked == some (.fifoWrite [2#8, 7#8, 9#8])) = true := by decide
/-- A POLL that stalls in the flag read, in a FIFO read of a drain, or in re-arming. -/
theorem test_witness_stall_poll :
    after (exec .poll { stateR with stalls := [0] }) (fun t => t.blocked == some .flags1) = true ∧
    nextAutomode { fixedReceiver [0xFF#8] with stalls := [1] } = true ∧
    nextAutomode { variableReceiver [0xFF#8, 6#8] with stalls := [2] } = true ∧
    nextAutomode { fixedReceiver [0x00#8] with radio := .sending, boost := true, stalls := [4] } = false ∧
    3 < (armRxOps true).length :=
  ⟨by decide, test_flag_set _, test_flag_set _, test_flag_clear _, by decide⟩
theorem test_step_poll_stalls :
    after (execPollWith vectorParams { fixedReceiver [0xFF#8] with stalls := [1] }) (fun t =>
      t.blocked == some (.fifoRead 1) && t.arena == [] && t.wIdx == 0#8) = true ∧
    after (execPollWith vectorParams { variableReceiver [0xFF#8, 6#8] with stalls := [2] }) (fun t =>
      t.blocked == some (.fifoRead 5) && t.arena == [] && t.wIdx == 0#8 && t.trace == [.flags1, .fifoRead 1]) = true := by
  decide
theorem test_witness_completed : after (exec .available pendingFixed) (fun t =>
    t.fault == none && t.blocked == none && t.responses == [[0x01#8]]) = true ∧
    pendingFixed.fault = none ∧ pendingFixed.blocked = none := by decide

/-! ### Configuration and power -/

theorem test_witness_cfg : State.reset.phase = .opened ∧ transactionsComplete 1 State.reset ∧
    (sizedState false false 4#8).phase ≠ .opened :=
  ⟨rfl, transactionsComplete_of_no_stalls rfl 1, by decide⟩
theorem test_witness_cfgSlots : stateR.phase = .ready ∧ State.reset.phase ≠ .ready ∧ (0#8).toNat = 0 ∧
    (255#8).toNat ≠ 0 := by decide
theorem test_witness_cfgPayload : State.reset.phase ≠ .sized ∧ (sizedState true true 1#8).phase = .sized ∧
    (65#8).toNat > 64 ∧ (64#8).toNat ≤ 64 ∧
    (sizedState true true 1#8).n.toNat * (64 + 1 + 1 + 1) ≤ Config.params.arenaBytes ∧
    transactionsComplete 1 (sizedState true true 1#8) :=
  ⟨by decide, rfl, by decide, by decide, test_arena_fits (by decide), transactionsComplete_of_no_stalls rfl 1⟩
/-- The machine's own ARENA_BYTES has no value to compute with, so the overflow clause is witnessed over 4096 bytes. -/
theorem test_witness_overflow : (sizedState true true 255#8).n.toNat * 67 > vectorParams.arenaBytes ∧
    ¬ (sizedState true true 1#8).n.toNat * 67 > vectorParams.arenaBytes := by decide
theorem test_witness_configuration : after (exec (.cfgSlots 4#8) State.reset) (fun t => t.n == 4#8) = true := by decide
theorem test_witness_power : State.reset.hp = .standard ∧ ({ stateR with hp := .highPower } : State).hp = .highPower ∧
    transactionsComplete 2 stateR ∧ min (max ((0x7F#8).toInt) (-2)) (if true then 20 else 17) = 20 ∧
    min (max ((0x80#8).toInt) (-2)) (if false then 20 else 17) = -2 :=
  ⟨rfl, rfl, transactionsComplete_of_no_stalls rfl 2, by decide, by decide⟩
theorem test_witness_levels : after (exec (.setPower 0x7F#8 true) { stateR with hp := .highPower }) (fun t =>
    t.trace == [] ++ [.ocpOff, .paLevel .s1s2 31#5]) = true ∧
    .paLevel .s1s2 31#5 ∈ [Transaction.ocpOff, .paLevel .s1s2 31#5] := by decide
theorem test_witness_ocp : after (exec (.setPower 0x7F#8 true) { stateR with hp := .highPower }) (fun t =>
    t.ghost.ocp == .off) = true ∧
    after (exec .receive { stateR with ghost := { Ghost.reset with ocp := .off } }) (fun t => t.ghost.ocp == .off) =
      true := by decide

/-! ### The state machine -/

theorem test_witness_receive : State.reset.phase ≠ .ready ∧ stateR.phase = .ready ∧
    transactionsComplete (armRxOps true).length stateR :=
  ⟨by decide, rfl, transactionsComplete_of_no_stalls rfl _⟩
theorem test_witness_send : State.reset.phase ≠ .ready ∧ stateR.phase = .ready ∧ (true ≠ stateR.vl ∨ true ≠ stateR.ad) ∧
    false = stateR.vl ∧ false = stateR.ad ∧ [1#8].length ≠ stateR.pUser.toNat ∧
    [1#8, 2#8].length = stateR.pUser.toNat ∧ transactionsComplete 5 stateR :=
  ⟨by decide, rfl, by decide, rfl, rfl, by decide, by decide, transactionsComplete_of_no_stalls rfl 5⟩
theorem test_witness_sendAddr : false = (readyState false true 4#8 4#7 5#7 5#7).vl ∧
    true = (readyState false true 4#8 4#7 5#7 5#7).ad ∧
    [1#8, 2#8, 3#8, 4#8].length = (readyState false true 4#8 4#7 5#7 5#7).pUser.toNat ∧
    [1#8].length ≠ (readyState false true 4#8 4#7 5#7 5#7).pUser.toNat := by decide
theorem test_witness_sendVar : true = (variableReceiver []).vl ∧ false = (variableReceiver []).ad ∧
    (variableReceiver []).phase = .ready ∧ (true ≠ stateR.vl ∨ false ≠ stateR.ad) := by decide
theorem test_witness_sendAddrVar : true = (readyState true true 2#8 4#7 6#7 7#7).vl ∧
    true = (readyState true true 2#8 4#7 6#7 7#7).ad ∧ (List.replicate 254 0#8).length ≤ 254 ∧
    ¬ (List.replicate 255 0#8).length ≤ 254 := by
  simp only [List.length_replicate]
  decide
theorem test_witness_pollFault : State.reset.phase ≠ .ready := by decide

theorem test_witness_pollIdle :
    (nextAutomode (fixedReceiver [0x00#8]) = false ∧ (fixedReceiver [0x00#8]).radio = .receiving) ∧
    (nextAutomode { fixedReceiver [0xFF#8] with radio := .sending } = true) ∧
    transactionsComplete 1 (fixedReceiver [0x00#8]) :=
  ⟨⟨test_flag_clear _, rfl⟩, test_flag_set _, transactionsComplete_of_no_stalls rfl 1⟩
theorem test_witness_pollRearm : nextAutomode { fixedReceiver [0x00#8] with radio := .sending, boost := true } = false ∧
    transactionsComplete (1 + (armRxOps true).length)
      { fixedReceiver [0x00#8] with radio := .sending, boost := true } :=
  ⟨test_flag_clear _, transactionsComplete_of_no_stalls rfl _⟩
theorem test_witness_pollFixed : (fixedReceiver [0xFF#8, 0x41#8]).phase = .ready ∧
    (fixedReceiver [0xFF#8, 0x41#8]).radio = .receiving ∧ nextAutomode (fixedReceiver [0xFF#8, 0x41#8]) = true ∧
    (fixedReceiver [0xFF#8, 0x41#8]).vl = false ∧ transactionsComplete 2 (fixedReceiver [0xFF#8, 0x41#8]) ∧
    (fixedReceiver [0xFF#8, 0x41#8]).wIdx.toNat * (fixedReceiver [0xFF#8, 0x41#8]).c.toNat +
      (fixedReceiver [0xFF#8, 0x41#8]).pc.toNat ≤ Config.params.arenaBytes :=
  ⟨rfl, rfl, test_flag_set _, rfl, transactionsComplete_of_no_stalls rfl 2, test_arena_fits (by decide)⟩
/-- The length byte 06 is one above PC = 5 and is clamped. -/
theorem test_witness_pollVariable : (variableReceiver [0xFF#8, 6#8, 1#8, 2#8, 3#8, 4#8, 5#8]).vl = true ∧
    nextAutomode (variableReceiver [0xFF#8, 6#8, 1#8, 2#8, 3#8, 4#8, 5#8]) = true ∧
    5 = min (variableReceiver [0xFF#8, 6#8, 1#8, 2#8, 3#8, 4#8, 5#8]).dropDraw.nextDraw.toNat
      ((variableReceiver []).c.toNat - 1) ∧
    transactionsComplete 3 (variableReceiver [0xFF#8, 6#8, 1#8, 2#8, 3#8, 4#8, 5#8]) ∧
    (variableReceiver []).wIdx.toNat * (variableReceiver []).c.toNat + 1 + 5 ≤ Config.params.arenaBytes :=
  ⟨rfl, test_flag_set _, by decide, transactionsComplete_of_no_stalls rfl 3, test_arena_fits (by decide)⟩
theorem test_witness_radio : after (exec (.send [1#8, 2#8]) stateR) (fun t => t.radio != stateR.radio) = true ∧
    after (exec .receive { stateR with radio := .sending }) (fun t => t.radio == .receiving) = true := by decide

/-! ### The ring buffer -/

theorem test_witness_readEmpty : State.reset.rIdx = State.reset.wIdx := rfl
theorem test_witness_readFixed : pendingFixed.rIdx ≠ pendingFixed.wIdx ∧ pendingFixed.vl = false ∧
    [0x41#8].length = pendingFixed.pc.toNat ∧
    pendingFixed.rIdx.toNat * pendingFixed.c.toNat + pendingFixed.pc.toNat ≤ Config.params.arenaBytes ∧
    ∀ j (hj : j < [0x41#8].length),
      Memory.read? pendingFixed.arena (pendingFixed.rIdx.toNat * pendingFixed.c.toNat + j) = some [0x41#8][j] :=
  ⟨by decide, rfl, by decide, test_arena_fits (by decide), by decide⟩
theorem test_witness_readVariable : pendingVariable.rIdx ≠ pendingVariable.wIdx ∧ pendingVariable.vl = true ∧
    Memory.read? pendingVariable.arena (pendingVariable.rIdx.toNat * pendingVariable.c.toNat) = some 0x05#8 ∧
    [1#8, 2#8, 3#8, 4#8, 5#8].length = min (0x05#8).toNat pendingVariable.pc.toNat ∧
    pendingVariable.rIdx.toNat * pendingVariable.c.toNat + 1 + 5 ≤ Config.params.arenaBytes ∧
    ∀ j (hj : j < [1#8, 2#8, 3#8, 4#8, 5#8].length),
      Memory.read? pendingVariable.arena (pendingVariable.rIdx.toNat * pendingVariable.c.toNat + 1 + j) =
        some [1#8, 2#8, 3#8, 4#8, 5#8][j] :=
  ⟨by decide, rfl, rfl, by decide, test_arena_fits (by decide), by decide⟩

/-- The state a POLL leaves that drains the frame 41 into slot 0. -/
def drainedFixed : State := { fixedReceiver [] with
  wIdx := 1#8, arena := [(0, 0x41#8)], responses := [[]], trace := [.flags1, .fifoRead 1] }

/-- A POLL that drains answers a next state, whatever the parameters are. -/
theorem test_witness_push : exec .poll (fixedReceiver [0xFF#8, 0x41#8]) = .next drainedFixed ∧
    drainedFixed.blocked = none := by
  refine ⟨?_, rfl⟩
  have hd : drain Config.params 0#8 { fixedReceiver [0x41#8] with trace := [.flags1] } = .done ()
      { fixedReceiver [] with arena := [(0, 0x41#8)], trace := [.flags1, .fifoRead 1] } :=
    drainFixed_done (base := 0) (s := { fixedReceiver [0x41#8] with trace := [.flags1] })
      (transactionsComplete_of_no_stalls rfl 1) (test_arena_fits (by decide))
  show finish (pollDecision Config.params 0xFF#8 { fixedReceiver [0x41#8] with trace := [.flags1] }) = _
  simp only [pollDecision, test_automode_set]
  show finish ((drain Config.params 0#8 { fixedReceiver [0x41#8] with trace := [.flags1] }).andThen _) = _
  rw [hd]
  rfl

/-- A POLL that reads am = 0 in Receiving answers a next state. -/
theorem test_witness_noPush : exec .poll (fixedReceiver [0x00#8]) = .next { fixedReceiver [] with
    responses := [[]], trace := [.flags1] } := by
  show finish (pollDecision Config.params 0x00#8 { fixedReceiver [] with trace := [.flags1] }) = _
  simp only [pollDecision, test_automode_clear]
  rfl

/-- A READ of a pending frame answers a next state. -/
theorem test_witness_readOne : exec .read pendingFixed = .next { pendingFixed with
    rIdx := 1#8, responses := [[0x01#8, 0x41#8]] } := by
  have hm : memRead Config.params (slotBase pendingFixed.rIdx pendingFixed) [0x41#8].length pendingFixed =
      .done [0x41#8] pendingFixed := memRead_done (test_arena_fits (by decide)) (by decide)
  simp only [exec, execRead, execReadWith, readFrame]
  rw [if_neg (by decide), readSlot, if_neg (by decide), readBytes]
  show finish ((((memRead Config.params (slotBase pendingFixed.rIdx pendingFixed) [0x41#8].length
    pendingFixed).andThen _).andThen _)) = _
  rw [hm]
  rfl

/-- A configuration with one slot. -/
theorem test_witness_oneSlot : CoreInv Config.params { fixedReceiver [] with n := 1#8 } ∧
    ({ fixedReceiver [] with n := 1#8 } : State).phase = .ready ∧ ({ fixedReceiver [] with n := 1#8 } : State).n = 1#8 :=
  ⟨{ test_inv_fixed [] with
      sized := by simp [fixedReceiver, readyState]
      slotCount := by simp [fixedReceiver, readyState]
      indices := by simp [fixedReceiver, readyState, State.reset]
      fits := fun _ => test_arena_fits (m := 1) (by decide) }, rfl, rfl⟩

/-! ### Invariants and whole-machine rules -/

theorem test_witness_stepInv : CoreInv Config.params (presented [0xB0#8, 0x00#8] pendingFixed) ∧
    SlotsFilled (presented [0xB0#8, 0x00#8] pendingFixed) ∧ Memory.wf (presented [0xB0#8, 0x00#8] pendingFixed).arena =
      true ∧ after (step (presented [0xB0#8, 0x00#8] pendingFixed)) (fun t => t.responses == [[0x01#8]]) = true :=
  ⟨{ test_inv_pending with }, test_filled_pending, by decide, by decide⟩
theorem test_witness_read : CoreInv Config.params pendingFixed ∧ SlotsFilled pendingFixed :=
  ⟨test_inv_pending, test_filled_pending⟩

/-- Sending with boost: the ghost state after ARM_TX with BOOST = 1 (L3-3 step 7). -/
def boostedSender : State := { stateR with
  radio := .sending, hp := .highPower, boost := true,
  ghost := ⟨.standby, some ⟨.fifoLevelRising, .packetSentRising, .transmitter⟩, .on, .on, .off⟩ }

theorem test_witness_boost : BoostInv (presented [0x70#8, 0x00#8] boostedSender) ∧
    keepsPowerDuty (presented [0x70#8, 0x00#8] boostedSender) ∧
    after (step (presented [0x70#8, 0x00#8] boostedSender)) (fun t => t.radio == .receiving && !boostInRx t.ghost) =
      true := by
  refine ⟨⟨by decide, fun _ _ => ⟨rfl, rfl⟩⟩, ?_, by decide⟩
  intro dbm b taken h
  have : offer (presented [0x70#8, 0x00#8] boostedSender) = .run .receive boostedSender := by decide
  rw [this] at h
  obtain h | h := h <;> cases h

/-- The duty kept by a SET_POWER in Receiving. -/
theorem test_witness_boost_power : BoostInv (presented [0x60#8, 0x0A#8] stateR) ∧
    keepsPowerDuty (presented [0x60#8, 0x0A#8] stateR) := by
  refine ⟨⟨by decide, by decide⟩, ?_⟩
  intro dbm b taken h
  have : offer (presented [0x60#8, 0x0A#8] stateR) = .run (.setPower 0x0A#8 false) stateR := by decide
  rw [this] at h
  obtain h | h := h <;> cases h
  rfl

/-- L3-3b: SET_POWER 10, 0 while Sending, then RECEIVE. -/
theorem test_witness_powerChange : boostedSender.phase = .ready ∧ boostedSender.radio = .sending ∧
    boostedSender.ghost.boost1 = .on ∧ boostedSender.boost = true ∧ boostedSender.blocked = none ∧
    after (exec (.setPower 0x0A#8 false) boostedSender) (fun t => t.blocked == none &&
      after (exec .receive t) (fun u => u.blocked == none && boostInRx u.ghost)) = true := by decide
/-- The same with a POLL that reads am = 0. -/
theorem test_witness_powerChange_poll :
    nextAutomode { boostedSender with boost := false, chipBytes := [0x00#8] } = false ∧
    after (exec .poll { boostedSender with boost := false, chipBytes := [0x00#8] }) (fun u =>
      u.blocked == none && boostInRx u.ghost) = true := by
  refine ⟨test_flag_clear _, ?_⟩
  show after (finish (pollDecision Config.params 0x00#8 { boostedSender with boost := false, trace := [.flags1] }))
    _ = true
  simp only [pollDecision, test_automode_clear]
  decide

theorem test_witness_writers : after (exec (.cfgPayload 65#8) (sizedState false false 4#8)) (fun _ => true) = true ∧
    after (exec .setHighpower State.reset) (fun t => t.hp != State.reset.hp) = true := by decide
theorem test_witness_writers_fault : tableFault .poll State.reset = some .notReady ∧
    after (exec .poll State.reset) (fun t => t.fault != State.reset.fault) = true := by decide
theorem test_witness_drainWrites : CoreInv Config.params (fixedReceiver [0xFF#8, 0x41#8]) ∧ Instr.read ≠ .poll ∧
    (fixedReceiver []).wIdx.toNat * (fixedReceiver []).c.toNat + 1 ≤ 1 :=
  ⟨test_inv_fixed _, by decide, by decide⟩
theorem test_witness_aes : ∀ b, Instr.poll ≠ .cfgAes b := by decide

/-- The hypotheses of the round trip, together, for SEND_VAR [1,2] and N = 2. -/
theorem test_witness_roundTrip : ∃ (i : Instr) (data frame rest : List Byte) (flags : Byte) (s t r : State),
    deliveredData i = some data ∧ exec i s = .next t ∧ t.fault = none ∧ t.blocked = none ∧
    t.trace.getLast? = some (.fifoWrite frame) ∧ CoreInv Config.params r ∧ r.phase = .ready ∧ r.vl = s.vl ∧
    r.ad = s.ad ∧ r.pUser = s.pUser ∧ data.length ≤ r.pc.toNat ∧ 2 ≤ r.n.toNat ∧ r.rIdx = r.wIdx ∧
    r.radio = .receiving ∧ r.stalls = [] ∧ r.chipBytes = flags :: frame ++ rest ∧
    flags.getLsbD Config.params.amBit.val = true :=
  ⟨.sendVar [1#8, 2#8], [1#8, 2#8], [2#8, 1#8, 2#8], [0x77#8], 0xFF#8, variableReceiver [],
    nextOr State.reset (exec (.sendVar [1#8, 2#8]) (variableReceiver [])),
    variableReceiver [0xFF#8, 2#8, 1#8, 2#8, 0x77#8], rfl, rfl, rfl, rfl, rfl, test_inv_variable _, rfl, rfl, rfl, rfl,
    by decide, by decide, rfl, rfl, rfl, rfl, test_flag_set _⟩

end Sys2Proof.Tests
end

section
/-! SUPPORT. The invariants of 10_state.md R40 over one step: an operation that writes none of their registers keeps
them, and each of the commands that writes one has a rule of its own. -/

namespace Sys2Proof.Machine

/-! ## The slot layout -/

/-- With P_req at most 64, C is at most 67, so no 7-bit register cuts off what CFG_PAYLOAD writes
(40_configuration.md R116). -/
theorem allocated_toNat (s : State) {pReq : Byte} (hb : pReq.toNat ≤ 64) :
    (allocated pReq s).pUser.toNat = pReq.toNat ∧
      (allocated pReq s).pc.toNat = internalCapacity pReq.toNat s.ad s.vl ∧
      (allocated pReq s).c.toNat = slotSize (internalCapacity pReq.toNat s.ad s.vl) s.vl := by
  have had : s.ad.toNat ≤ 1 := Bool.toNat_le _
  have hvl : s.vl.toNat ≤ 1 := Bool.toNat_le _
  simp only [allocated, allocateSlots_pUser, allocateSlots_pc, allocateSlots_c, BitVec.toNat_ofNat, slotSize,
    internalCapacity, bit]
  omega

/-! ## Operations that write no register of the invariants -/

/-- The registers the invariants of 10_state.md R40 speak of hold in t what they hold in s. -/
structure SameCoreRegisters (s t : State) : Prop where
  phase : t.phase = s.phase
  n : t.n = s.n
  wIdx : t.wIdx = s.wIdx
  rIdx : t.rIdx = s.rIdx
  pUser : t.pUser = s.pUser
  pc : t.pc = s.pc
  c : t.c = s.c
  vl : t.vl = s.vl
  ad : t.ad = s.ad
  hp : t.hp = s.hp
  boost : t.boost = s.boost

namespace CoreInv

variable {k : Params} {s t : State}

/-- The invariants depend on those registers alone. -/
theorem congr (h : CoreInv k s) (e : SameCoreRegisters s t) : CoreInv k t where
  idle := by rw [e.phase, e.wIdx, e.rIdx]; exact h.idle
  sized := by rw [e.phase, e.n]; exact h.sized
  slotCount := by rw [e.phase, e.n]; exact h.slotCount
  indices := by rw [e.phase, e.n, e.wIdx, e.rIdx]; exact h.indices
  userCapacity := by rw [e.phase, e.pUser]; exact h.userCapacity
  capacity := by rw [e.phase, e.pc, e.pUser, e.ad, e.vl]; exact h.capacity
  slot := by rw [e.phase, e.c, e.pc, e.vl]; exact h.slot
  fits := by rw [e.phase, e.n, e.c]; exact h.fits
  standard := by rw [e.hp, e.boost]; exact h.standard

theorem withPort (h : CoreInv k s) (rest : List HostEvent) (cursor : Option Nat) : CoreInv k (s.withPort rest cursor) :=
  h.congr (by constructor <;> simp)

theorem setFault (h : CoreInv k s) (code : FaultCode) (word : CommandWord) : CoreInv k (s.setFault code word) :=
  h.congr (by constructor <;> simp)

theorem respond (h : CoreInv k s) (v : List Byte) : CoreInv k (s.respond v) :=
  h.congr (by constructor <;> simp)

theorem block (h : CoreInv k s) (op : Transaction) (rest : List Nat) : CoreInv k (s.block op rest) :=
  h.congr (by constructor <;> simp)

theorem completed (h : CoreInv k s) (op : Transaction) : CoreInv k (s.completed op) :=
  h.congr (by constructor <;> simp)

theorem completedAll (h : CoreInv k s) (ops : List Transaction) : CoreInv k (s.completedAll ops) :=
  h.congr (by constructor <;> simp)

theorem dropDraw (h : CoreInv k s) : CoreInv k s.dropDraw :=
  h.congr (by constructor <;> simp)

theorem afterReads (h : CoreInv k s) (ops : List Transaction) (chip : List Byte) (drawn : Nat) (stalls : List Nat) :
    CoreInv k (s.afterReads ops chip drawn stalls) :=
  h.congr (by constructor <;> simp)

theorem setArena (h : CoreInv k s) (m : Memory) : CoreInv k (s.setArena m) :=
  h.congr (by constructor <;> simp)

theorem setRadio (h : CoreInv k s) (r : RadioState) : CoreInv k (s.setRadio r) :=
  h.congr (by constructor <;> simp)

theorem setAes (h : CoreInv k s) (e : Bool) : CoreInv k (s.setAes e) :=
  h.congr (by constructor <;> simp)

/-! ## Operations that write one -/

/-- Outside READY the invariants speak of the indices, N and BOOST alone. -/
theorem of_not_ready (hp : s.phase ≠ .ready) (hi : s.wIdx = 0#8 ∧ s.rIdx = 0#8)
    (hn : s.phase = .sized → 1 ≤ s.n.toNat) (hb : s.hp = .standard → s.boost = false) : CoreInv k s where
  idle _ := hi
  sized := hn
  slotCount h := absurd h hp
  indices h := absurd h hp
  userCapacity h := absurd h hp
  capacity h := absurd h hp
  slot h := absurd h hp
  fits h := absurd h hp
  standard := hb

/-- The registers of reset meet the invariants (70_reset_and_hazards.md R252). -/
theorem applyReset (k : Params) (s : State) : CoreInv k s.applyReset :=
  of_not_ready (by simp [State.reset]) ⟨rfl, rfl⟩ (by simp [State.reset]) fun _ => rfl

/-- A command that reset abandons leaves the registers of reset (70_reset_and_hazards.md R250). -/
theorem abandonCommand (k : Params) (s : State) (shown : List (List Byte)) : CoreInv k (s.abandonCommand shown) :=
  applyReset k _

/-- CFG_FRAME writes VL and AD before the slots are laid out (40_configuration.md R110). -/
theorem setFrameMode (h : CoreInv k s) (hp : s.phase = .opened) (vl ad : Bool) : CoreInv k (s.setFrameMode vl ad) :=
  of_not_ready (by simp [hp]) (h.idle (by simp [hp])) h.sized h.standard

/-- CFG_SLOTS chooses N ≥ 1 while both indices are 0 (40_configuration.md R114). -/
theorem chooseSlots (h : CoreInv k s) (hp : s.phase ≠ .ready) {n : BitVec 8} (hn : n.toNat ≠ 0) :
    CoreInv k (s.chooseSlots n) :=
  of_not_ready (by simp) (h.idle hp) (fun _ => Nat.one_le_iff_ne_zero.mpr hn) h.standard

/-- CFG_PAYLOAD lays out the slots that passed its check (40_configuration.md R116). -/
theorem allocated (h : CoreInv k s) (hp : s.phase = .sized) {pReq : Byte} (hb : pReq.toNat ≤ 64)
    (hf : s.n.toNat * slotSize (internalCapacity pReq.toNat s.ad s.vl) s.vl ≤ k.arenaBytes) :
    CoreInv k (allocated pReq s) := by
  obtain ⟨hu, hpc, hc⟩ := allocated_toNat s hb
  have hn : 1 ≤ s.n.toNat := h.sized hp
  exact {
    idle := fun hp' => absurd rfl hp'
    sized := fun _ => hn
    slotCount := fun _ => ⟨hn, Nat.le_of_lt_succ s.n.isLt⟩
    indices := fun _ => ⟨hn, hn⟩
    userCapacity := fun _ => hu.trans_le hb
    capacity := fun _ => by rw [hpc, hu]; rfl
    slot := fun _ => by rw [hc, hpc]; rfl
    fits := fun _ => by rw [hc]; exact hf
    standard := h.standard }

/-- SET_HIGHPOWER leaves the Standard class, and with it the bound on BOOST (44_power.md R200). -/
theorem setHighPower (h : CoreInv k s) : CoreInv k (s.setClass .highPower) :=
  { h with standard := by simp }

/-- SET_POWER writes the BOOST of `MAP`, which is 0 in the Standard class (44_power.md R202, R203). -/
theorem setMappedBoost (h : CoreInv k s) (p : Int) (b : Bool) : CoreInv k (s.setBoost (powerMap p b s.hp).boost) :=
  { h with standard := fun (hs : s.hp = .standard) => by rw [hs]; rfl }

/-- The next index stays below N in READY (42_ring_buffer.md R161). -/
theorem nextIndex_lt (h : CoreInv k s) (hp : s.phase = .ready) (i : BitVec 8) :
    (nextIndex s.n i).toNat < s.n.toNat := by
  have hn := (h.slotCount hp).1
  rw [nextIndex_toNat hn]
  exact Nat.mod_lt _ hn

/-- Where the indices differ a frame is pending, so the CORE is in READY. -/
theorem ready_of_pending (h : CoreInv k s) (hr : s.rIdx ≠ s.wIdx) : s.phase = .ready := by
  by_contra hp
  obtain ⟨hw, hr'⟩ := h.idle hp
  exact hr (hr'.trans hw.symm)

/-- READ advances r_idx modulo N (42_ring_buffer.md R166). -/
theorem advanceReadIndex (h : CoreInv k s) (hp : s.phase = .ready) :
    CoreInv k (s.setReadIndex (nextIndex s.n s.rIdx)) :=
  { h with
    idle := fun hp' => absurd hp hp'
    indices := fun _ => ⟨(h.indices hp).1, h.nextIndex_lt hp _⟩ }

/-- POLL's push advances w_idx modulo N (42_ring_buffer.md R161). -/
theorem push (h : CoreInv k s) (hp : s.phase = .ready) : CoreInv k (push s) :=
  { h with
    idle := fun hp' => absurd hp hp'
    indices := fun _ => ⟨h.nextIndex_lt hp _, (h.indices hp).2⟩ }

/-! ## Commands and steps -/

/-- Each way a command ends is made of the operations above. -/
theorem of_effect {i : Instr} (h : CoreInv Config.params s) (he : Effect i s t) : CoreInv Config.params t := by
  cases he with
  | raised => exact h.setFault _ _
  | frame _ _ _ hp => exact ((h.setFrameMode hp _ _).completed _).respond _
  | frameBlock _ _ _ _ hp => exact (h.setFrameMode hp _ _).block _ _
  | aes => exact ((h.setAes _).completed _).respond _
  | aesBlock => exact (h.setAes _).block _ _
  | slots _ _ hp hn => exact (h.chooseSlots hp hn).respond _
  | payload _ _ _ hp hb hf => exact ((h.allocated hp hb hf).completed _).respond _
  | payloadBlock _ _ _ _ hp hb hf => exact (h.allocated hp hb hf).block _ _
  | highpower => exact h.setHighPower.respond _
  | power dbm b =>
    have hm := (h.completedAll (powerTransactions (powerMap (sext8 dbm) b s.hp))).setMappedBoost (sext8 dbm) b
    rw [State.completedAll_hp] at hm
    exact hm.respond _
  | powerBlock => exact (h.completedAll _).block _ _
  | receive => exact ((h.completedAll _).setRadio _).respond _
  | receiveBlock => exact (h.completedAll _).block _ _
  | send => exact ((h.completedAll _).setRadio _).respond _
  | sendBlock => exact (h.completedAll _).block _ _
  | sendBlockWrite => exact ((h.completedAll _).setRadio _).block _ _
  | available => exact h.respond _
  | canSend => exact h.respond _
  | readEmpty => exact h.respond _
  | readFrame _ _ hr => exact (h.advanceReadIndex (h.ready_of_pending hr)).respond _
  | pollBlock => exact h.block _ _
  | pollIdle => exact (h.completed _).dropDraw.respond _
  | pollDrain _ _ _ _ _ _ hp => exact (((h.afterReads _ _ _ _).setArena _).push hp).respond _
  | pollDrainBlock => exact (h.afterReads _ _ _ _).block _ _
  | pollRearm => exact (((h.completed _).dropDraw.completedAll _).setRadio _).respond _
  | pollRearmBlock => exact ((h.completed _).dropDraw.completedAll _).block _ _

/-- R40 over one step: a wait, a reset, an abandoned command, a command, or an illegal word. -/
theorem of_step (h : CoreInv Config.params s) (hs : step s = .next t) : CoreInv Config.params t := by
  obtain rfl |
      ⟨_, rest, cursor, -, ⟨-, rfl⟩ | ⟨-, -, ⟨_, _, -, -, -, rfl⟩ | ⟨_, -, ⟨_, -, -, hx⟩ | ⟨_, -, rfl⟩⟩⟩⟩ :=
    step_cases hs
  · exact h
  · exact applyReset _ _
  · exact abandonCommand _ _ _
  · exact (h.withPort rest cursor).of_effect (exec_effect hx)
  · exact (h.withPort rest cursor).setFault _ _

end CoreInv

/-- Settles O44: each way a step ends keeps the invariants of R40. -/
theorem stepPreservesTheRegisterInvariants : Obligations.StepPreservesTheRegisterInvariants :=
  fun _ _ h hs => h.of_step hs

end Sys2Proof.Machine
end

section
/-! SUPPORT. The responses a command places: none where it faults or stalls, one of its opcode's form where it completes
(30_encoding.md R84). -/

namespace Sys2Proof.Machine

variable {i : Instr} {s t u : State}

/-- The form of the response each opcode places, as a function of the state it starts in (30_encoding.md R84). -/
inductive ResponseForm : Instr → State → List Byte → Prop
  | empty (i : Instr) (s : State) (hi : i ≠ .available ∧ i ≠ .canSend ∧ i ≠ .read) : ResponseForm i s []
  | available (s : State) : ResponseForm .available s [statusByte (availFlag s)]
  | canSend (s : State) : ResponseForm .canSend s [statusByte (canSendFlag s)]
  | read (s : State) (data : List Byte) (hl : data.length ≤ s.pc.toNat) (he : s.rIdx = s.wIdx → data = []) :
    ResponseForm .read s (lengthByte data.length :: data)

/-- What the host sees of a command: no response, from one that has faulted or stalled; or one response of its opcode's
form, from one that neither faults nor stalls (30_encoding.md R84, 20_memory.md R57, 60_exceptions.md R221). -/
inductive Answer (i : Instr) (s t : State) : Prop
  | silent (hstop : t.fault ≠ none ∨ t.blocked ≠ none) (hr : t.responses = s.responses)
  | responded (v : List Byte) (hf : t.fault = s.fault) (hb : t.blocked = s.blocked)
    (hr : t.responses = s.responses ++ [v]) (hv : ResponseForm i s v)

/-! ## The form of a response -/

namespace ResponseForm

variable {v : List Byte}

/-- A SEND command is none of the three that answer something. -/
theorem of_isSend (hi : i.isSend = true) : ResponseForm i s [] :=
  .empty i s (by refine ⟨?_, ?_, ?_⟩ <;> rintro rfl <;> cases hi)

theorem eq_nil (h : ResponseForm i s v) (ha : i ≠ .available) (hc : i ≠ .canSend) (hr : i ≠ .read) : v = [] := by
  cases h with
  | empty => rfl
  | available => exact absurd rfl ha
  | canSend => exact absurd rfl hc
  | read => exact absurd rfl hr

theorem eq_availFlag (h : ResponseForm .available s v) : v = [statusByte (availFlag s)] := by
  cases h with
  | empty _ _ hi => exact absurd rfl hi.1
  | available => rfl

theorem eq_canSendFlag (h : ResponseForm .canSend s v) : v = [statusByte (canSendFlag s)] := by
  cases h with
  | empty _ _ hi => exact absurd rfl hi.2.1
  | canSend => rfl

theorem exists_data (h : ResponseForm .read s v) : ∃ data : List Byte, v = lengthByte data.length :: data ∧
    data.length ≤ s.pc.toNat ∧ (s.rIdx = s.wIdx → data = []) := by
  cases h with
  | empty _ _ hi => exact absurd rfl hi.2.2
  | read _ data hl he => exact ⟨data, rfl, hl, he⟩

end ResponseForm

/-! ## How a command ends, as the host sees it -/

@[simp] theorem allocated_fault (pReq : Byte) : (allocated pReq s).fault = s.fault := rfl
@[simp] theorem allocated_blocked (pReq : Byte) : (allocated pReq s).blocked = s.blocked := rfl
@[simp] theorem allocated_responses (pReq : Byte) : (allocated pReq s).responses = s.responses := rfl

/-- A command blocked in a transaction has placed no response (20_memory.md R57). -/
theorem Answer.of_block {op : Transaction} {rest : List Nat} (hr : u.responses = s.responses := by simp) :
    Answer i s (u.block op rest) :=
  .silent (.inr (by simp)) (by simp [hr])

/-- A command that comes to its end places its one response there (30_encoding.md R84). -/
theorem Answer.of_respond {v : List Byte} (hv : ResponseForm i s v) (hf : u.fault = s.fault := by simp)
    (hb : u.blocked = s.blocked := by simp) (hr : u.responses = s.responses := by simp) : Answer i s (u.respond v) :=
  .responded v (by simp [hf]) (by simp [hb]) (by simp [hr]) hv

/-- Each way a command ends places no response or one of its opcode's form. -/
theorem Effect.answer (he : Effect i s t) : Answer i s t := by
  cases he with
  | raised => exact .silent (.inl (by simp)) (by simp)
  | frame => exact .of_respond (.empty _ _ (by simp))
  | frameBlock => exact .of_block
  | aes => exact .of_respond (.empty _ _ (by simp))
  | aesBlock => exact .of_block
  | slots => exact .of_respond (.empty _ _ (by simp))
  | payload => exact .of_respond (.empty _ _ (by simp))
  | payloadBlock => exact .of_block
  | highpower => exact .of_respond (.empty _ _ (by simp))
  | power => exact .of_respond (.empty _ _ (by simp))
  | powerBlock => exact .of_block
  | receive => exact .of_respond (.empty _ _ (by simp))
  | receiveBlock => exact .of_block
  | send _ _ _ hi => exact .of_respond (.of_isSend hi)
  | sendBlock => exact .of_block
  | sendBlockWrite => exact .of_block
  | available => exact .of_respond (.available s)
  | canSend => exact .of_respond (.canSend s)
  | readEmpty => exact .of_respond (.read s [] (Nat.zero_le _) fun _ => rfl)
  | readFrame _ data hr hl => exact .of_respond (.read s data hl fun h => absurd h hr)
  | pollBlock => exact .of_block
  | pollIdle => exact .of_respond (.empty _ _ (by simp))
  | pollDrain => exact .of_respond (.empty _ _ (by simp))
  | pollDrainBlock => exact .of_block
  | pollRearm => exact .of_respond (.empty _ _ (by simp))
  | pollRearmBlock => exact .of_block

/-! ## The bound on READ -/

/-- `PC = P_user + AD + VL` is at most 66 in READY (10_state.md R40). -/
theorem CoreInv.pc_le {k : Params} (h : CoreInv k s) (hp : s.phase = .ready) : s.pc.toNat ≤ 66 := by
  have hu := h.userCapacity hp
  have hc := h.capacity hp
  have had : s.ad.toNat ≤ 1 := Bool.toNat_le _
  have hvl : s.vl.toNat ≤ 1 := Bool.toNat_le _
  omega

/-- Data are read only where a frame is pending, so in READY (42_ring_buffer.md R166). -/
theorem CoreInv.data_length_le {k : Params} (h : CoreInv k s) {data : List Byte} (hl : data.length ≤ s.pc.toNat)
    (he : s.rIdx = s.wIdx → data = []) : data.length ≤ 66 := by
  by_cases hr : s.rIdx = s.wIdx
  · simp [he hr]
  · exact hl.trans (h.pc_le (h.ready_of_pending hr))

/-- Settles O15: what the host sees of a command is its `Answer`, and READ's data are bounded by R40. -/
theorem completedCommandsPlaceOneResponse : Obligations.CompletedCommandsPlaceOneResponse := by
  unfold Obligations.CompletedCommandsPlaceOneResponse
  intro i s t hsf hsb hx
  obtain ⟨hstop, hr⟩ | ⟨v, hf, hb, hr, hv⟩ := (exec_effect hx).answer
  · refine ⟨fun _ => hr, fun hf hb => ?_⟩
    exact (hstop.elim (· hf) (· hb)).elim
  · refine ⟨fun hstop => ?_, fun _ _ => ⟨v, hr, hv.eq_nil, ?_, ?_, ?_⟩⟩
    · exact (hstop.elim (· (hf.trans hsf)) (· (hb.trans hsb))).elim
    · rintro rfl
      simpa [statusByte, availFlag] using hv.eq_availFlag
    · rintro rfl
      simpa [statusByte, canSendFlag] using hv.eq_canSendFlag
    · rintro rfl
      obtain ⟨data, rfl, hl, he⟩ := hv.exists_data
      exact ⟨data, rfl, hl, fun h => h.data_length_le hl he⟩

end Sys2Proof.Machine
end

section
/-! SUPPORT. The configuration commands (40_configuration.md): each one's checks in order, as one equation of `exec`, and
how a command ends that writes registers and then issues its one transaction. -/

namespace Sys2Proof.Machine

open Sys2Proof.Claims

variable {s : State}

/-! ## Each command's checks, in the order written (60_exceptions.md R223) -/

theorem exec_cfgFrame (vl ad : Bool) (s : State) : exec (.cfgFrame vl ad) s =
    if s.phase ≠ .opened then .next (faulted .configOrder (.cfgFrame vl ad) s)
    else configureChip (.cfgFrame vl ad) (s.setFrameMode vl ad) := rfl

theorem exec_cfgAes (e : Bool) (s : State) : exec (.cfgAes e) s =
    if s.phase ≠ .opened then .next (faulted .configOrder (.cfgAes e) s)
    else configureChip (.cfgAes e) (s.setAes e) := rfl

theorem exec_cfgSlots (nReq : Byte) (s : State) : exec (.cfgSlots nReq) s =
    if s.phase = .ready then .next (faulted .configOrder (.cfgSlots nReq) s)
    else if nReq.toNat = 0 then .next (faulted .badOperand (.cfgSlots nReq) s)
    else .next ((s.chooseSlots nReq).respond []) := rfl

theorem exec_cfgPayload (pReq : Byte) (s : State) : exec (.cfgPayload pReq) s =
    if s.phase ≠ .sized then .next (faulted .configOrder (.cfgPayload pReq) s)
    else if 64 < pReq.toNat then .next (faulted .badOperand (.cfgPayload pReq) s)
    else if Config.params.arenaBytes < s.n.toNat * slotSize (internalCapacity pReq.toNat s.ad s.vl) s.vl then
      .next (faulted .arenaOverflow (.cfgPayload pReq) s)
    else configureChip (.cfgLen (BitVec.ofNat 7 (internalCapacity pReq.toNat s.ad s.vl))) (allocated pReq s) := rfl

/-! ## How they end once no check fails -/

/-- Where its one transaction completes, a configuration command places the empty response after it. -/
theorem configureChip_done {op : Transaction} (h : transactionsComplete 1 s) :
    configureChip op s = .next ((s.completed op).respond []) := by
  rw [configureChip, issue_done h, Run.andThen_done, finish_done]

/-- A command that writes registers and then issues its one transaction completes with just these writes, when they touch
neither the stalls to come nor what the transaction and the response write. -/
theorem completesWith_of_configureChip {i : Instr} {op : Transaction} {upd : State → State}
    (hx : exec i s = configureChip op (upd s)) (hstalls : (upd s).stalls = s.stalls)
    (hcomm : ((upd s).completed op).respond [] = upd ((s.completed op).respond [])) :
    completesWith i s [op] upd [] := by
  intro hc
  rw [hx, configureChip_done (transactionsComplete_congr hstalls hc), hcomm]
  rfl

/-! ## The statements -/

/-- Settles O16: past its one check CFG_FRAME writes VL and AD, and its transaction completes. -/
theorem cfgFrameSetsTheFrameMode : Obligations.CfgFrameSetsTheFrameMode := fun vl ad s =>
  ⟨fun hp => (exec_cfgFrame vl ad s).trans (if_pos hp),
    fun hp => completesWith_of_configureChip ((exec_cfgFrame vl ad s).trans (if_neg (not_not.mpr hp))) rfl rfl⟩

/-- Settles O17: past its one check CFG_AES writes AES, and its transaction completes. -/
theorem cfgAesSetsAesAlone : Obligations.CfgAesSetsAesAlone := fun e s =>
  ⟨fun hp => (exec_cfgAes e s).trans (if_pos hp),
    fun hp => completesWith_of_configureChip ((exec_cfgAes e s).trans (if_neg (not_not.mpr hp))) rfl rfl⟩

/-- Settles O18: one case for each check of CFG_SLOTS, and one for its end without a transaction. -/
theorem cfgSlotsSetsTheSlotCount : Obligations.CfgSlotsSetsTheSlotCount := by
  intro nReq s
  refine ⟨fun hp => ?_, fun hp hn => ?_, fun hp hn _ => ?_⟩
  · rw [exec_cfgSlots, if_pos hp]
  · rw [exec_cfgSlots, if_neg hp, if_pos hn]
  · rw [exec_cfgSlots, if_neg hp, if_neg hn]
    rfl

/-- Settles O19: one case for each check of CFG_PAYLOAD, one for its end, and the widths by `allocated_toNat`. -/
theorem cfgPayloadAllocatesTheSlots : Obligations.CfgPayloadAllocatesTheSlots := by
  rintro pReq s _ _ rfl rfl
  refine ⟨fun hp => ?_, fun hp hb => ?_, fun hp hb hf => ?_, fun hp hb hf => ?_, fun hb => allocated_toNat s hb⟩
  · rw [exec_cfgPayload, if_pos hp]
  · rw [exec_cfgPayload, if_neg (not_not.mpr hp), if_pos hb]
  · rw [exec_cfgPayload, if_neg (not_not.mpr hp), if_neg (Nat.not_lt.mpr hb)]
    exact if_pos hf
  · refine completesWith_of_configureChip ?_ rfl rfl
    rw [exec_cfgPayload, if_neg (not_not.mpr hp), if_neg (Nat.not_lt.mpr hb)]
    exact if_neg (Nat.not_lt.mpr hf)

end Sys2Proof.Machine
end

section
/-! SUPPORT. The transceiver state machine (41_state_machine.md): the checks of RECEIVE, SEND and POLL in order, how
ARM_RX, ARM_TX and POLL's one decision end once their transactions complete, and which commands write `state`. -/

namespace Sys2Proof.Machine

open Sys2Proof.Claims

variable {i : Instr} {s t : State}

/-! ## The transactions of ARM_RX and ARM_TX (41_state_machine.md R131, R134) -/

theorem armRxTransactions_eq (boost : Bool) : armRxTransactions boost = armRxOps boost := by
  cases boost <;> rfl

theorem armTxTransactions_append_fifoWrite (boost : Bool) (frame : List Byte) :
    armTxTransactions boost ++ [.fifoWrite frame] = armTxOps boost frame := by
  cases boost <;> rfl

/-- A command that ends with its transactions completed, `state` written and its response placed has changed nothing
else. -/
theorem completedAll_setRadio_respond (ops : List Transaction) (r : RadioState) (v : List Byte) (s : State) :
    ((s.completedAll ops).setRadio r).respond v =
      { s.completedAll ops with radio := r, responses := s.responses ++ [v] } := by
  rw [State.respond, State.setRadio_responses, State.completedAll_responses]
  rfl

/-! ## RECEIVE -/

theorem exec_receive (s : State) : exec .receive s =
    if s.phase ≠ .ready then .next (faulted .notReady .receive s) else finish (rearm s) := rfl

/-- `ARM_RX` as the last steps of RECEIVE and of POLL: the empty response comes after it (41_state_machine.md R132,
R143). -/
theorem finish_rearm (h : transactionsComplete (armRxOps s.boost).length s) : finish (rearm s) =
    .next { s.completedAll (armRxOps s.boost) with radio := .receiving, responses := s.responses ++ [[]] } := by
  rw [← armRxTransactions_eq] at h ⊢
  rw [rearm, armRx_done h, Run.andThen_done, finish_done, completedAll_setRadio_respond]

/-- Settles O26: past its one check RECEIVE is ARM_RX and the empty response. -/
theorem receiveArmsReception : Obligations.ReceiveArmsReception := fun s =>
  ⟨fun hp => (exec_receive s).trans (if_pos hp),
    fun hp hc => ((exec_receive s).trans (if_neg (not_not.mpr hp))).trans (finish_rearm hc)⟩

/-! ## The SEND family -/

/-- `ARM_TX` as the last steps of a SEND command: the empty response comes after it (41_state_machine.md R135). -/
theorem finish_armTx {frame : List Byte} (h : transactionsComplete (armTxOps s.boost frame).length s) :
    finish ((armTx frame s).andThen fun _ s' => .done [] s') =
      .next { s.completedAll (armTxOps s.boost frame) with
        radio := .sending, responses := s.responses ++ [[]] } := by
  rw [← armTxTransactions_append_fifoWrite] at h ⊢
  rw [armTx_done h, Run.andThen_done, finish_done, completedAll_setRadio_respond]

/-- `SEND_COMMON` makes its three checks in the order written, and then runs ARM_TX with the variant's frame
(41_state_machine.md R135, 60_exceptions.md R223). -/
theorem sendsFrame_of_sendCommon {vv : Bool} {address : Option Byte} {payload : List Byte} {lengthOk : Bool}
    {rule : Prop} (hrule : lengthOk = true ↔ rule)
    (hx : exec i s = sendCommon vv address payload lengthOk (encodeWord i) s) :
    sendsFrame i vv address.isSome rule (encodeFrame vv address payload) s := by
  have mode : (vv, address.isSome) ≠ (s.vl, s.ad) ↔ vv ≠ s.vl ∨ address.isSome ≠ s.ad := by
    rw [ne_eq, Prod.mk.injEq, not_and_or]
  rw [sendCommon] at hx
  refine ⟨fun hp => ?_, fun hp hm => ?_, fun hp hv ha hn => ?_, fun hp hv ha hr hc => ?_⟩
  · rw [hx, if_pos hp]
    rfl
  · rw [hx, if_neg (not_not.mpr hp), if_pos (mode.mpr hm)]
    rfl
  · rw [hx, if_neg (not_not.mpr hp), if_neg (by simp [hv, ha]), if_pos (Bool.eq_false_iff.mpr (mt hrule.mp hn))]
    rfl
  · rw [hx, if_neg (not_not.mpr hp), if_neg (by simp [hv, ha]), if_neg (by simp [hrule.mpr hr])]
    exact finish_armTx hc

/-- Settles O27: SEND is `SEND_COMMON` with no address and the fixed length rule. -/
theorem sendWritesThePayload : Obligations.SendWritesThePayload := fun _ _ =>
  sendsFrame_of_sendCommon (address := none) decide_eq_true_iff rfl

/-- Settles O28: SEND_ADDR is `SEND_COMMON` with the address and the fixed length rule. -/
theorem sendAddrWritesAddressAndPayload : Obligations.SendAddrWritesAddressAndPayload := fun address _ _ =>
  sendsFrame_of_sendCommon (address := some address) decide_eq_true_iff rfl

/-- Settles O29: SEND_VAR is `SEND_COMMON` with no address and no length rule. -/
theorem sendVarWritesLengthAndPayload : Obligations.SendVarWritesLengthAndPayload := fun _ _ =>
  sendsFrame_of_sendCommon (address := none) (iff_of_true rfl trivial) rfl

/-- Settles O30: SEND_ADDR_VAR is `SEND_COMMON` with the address and the rule `n ≤ 254`. -/
theorem sendAddrVarWritesLengthAddressAndPayload : Obligations.SendAddrVarWritesLengthAddressAndPayload :=
  fun address _ _ => sendsFrame_of_sendCommon (address := some address) decide_eq_true_iff rfl

/-! ## POLL -/

theorem exec_poll (s : State) : exec .poll s =
    if s.phase ≠ .ready then .next (faulted .notReady .poll s)
    else finish ((readFlags1 s).andThen (pollDecision Config.params)) := rfl

/-- In READY, once its flag read has completed, POLL ends as its one decision on that byte does
(41_state_machine.md R140). -/
theorem exec_poll_of_ready {m : Nat} (hp : s.phase = .ready) (hc : transactionsComplete (m + 1) s) :
    exec .poll s = finish (pollDecision Config.params s.nextDraw (s.completed .flags1).dropDraw) := by
  rw [exec_poll, if_neg (not_not.mpr hp), readFlags1, issueForByte_done hc, Run.andThen_done]

/-- The bit that decides is the one the statements name (10_state.md R36). -/
theorem nextAutomode_eq (s : State) : nextAutomode s = automodeActive Config.params s.nextDraw := rfl

/-- The decision is to do nothing in Receiving with am = 0 and in Sending with am = 1 (41_state_machine.md R142). -/
theorem pollDecision_idle {k : Params} {flags1 : Byte}
    (h : s.radio = .receiving ∧ automodeActive k flags1 = false ∨
      s.radio = .sending ∧ automodeActive k flags1 = true) : pollDecision k flags1 s = .done [] s := by
  obtain ⟨hr, ha⟩ | ⟨hr, ha⟩ := h <;> rw [pollDecision, hr, ha]

/-- The decision is to arm reception in Sending with am = 0 (41_state_machine.md R143). -/
theorem pollDecision_rearm {k : Params} {flags1 : Byte} (hr : s.radio = .sending)
    (ha : automodeActive k flags1 = false) : pollDecision k flags1 s = rearm s := by
  rw [pollDecision, hr, ha]

/-- Settles O32: the flag read, which writes no register, and the decision to do nothing. -/
theorem pollWithNothingToDoReadsOneFlag : Obligations.PollWithNothingToDoReadsOneFlag := by
  intro s hp hidle hc
  rw [exec_poll_of_ready hp hc, pollDecision_idle (by simpa [nextAutomode_eq] using hidle), finish_done,
    State.respond, State.dropDraw_responses, State.completed_responses]

/-- Settles O33: the flag read, which writes no register, and then ARM_RX as in RECEIVE. -/
theorem pollRearmsReception : Obligations.PollRearmsReception := by
  intro s hp hr ha hc
  rw [Nat.add_comm] at hc
  have hboost : (s.completed .flags1).dropDraw.boost = s.boost := by simp
  have hrest : transactionsComplete (armRxOps s.boost).length (s.completed .flags1).dropDraw :=
    transactionsComplete_congr (by simp) (transactionsComplete_completed (op := .flags1) hc)
  rw [← hboost] at hrest
  rw [exec_poll_of_ready hp hc, pollDecision_rearm (by simpa using hr) ha, finish_rearm hrest, hboost,
    State.dropDraw_responses, State.completed_responses]

/-! ## CAN_SEND -/

theorem exec_canSend (s : State) : exec .canSend s = .next (s.respond [statusByte (canSendFlag s)]) := rfl

/-- Settles O36: CAN_SEND places its status byte and does nothing else. -/
theorem canSendAnswersReceiving : Obligations.CanSendAnswersReceiving := by
  intro s _
  have hbyte : statusByte (canSendFlag s) = if s.radio = .receiving then 0x01#8 else 0x00#8 := by
    simp [statusByte, canSendFlag]
  rw [exec_canSend, hbyte]
  rfl

/-! ## The transitions of `state` (41_state_machine.md R130) -/

@[simp] theorem allocated_radio (pReq : Byte) : (allocated pReq s).radio = s.radio := rfl

/-- Of all the ways a command ends four write `state`: a SEND command that comes to its FIFO write, whether that write
completes or stalls, and a RECEIVE or a POLL that comes to the end of ARM_RX. -/
theorem Effect.radio_cases (he : Effect i s t) :
    t.radio = s.radio ∨ (i.isSend = true ∧ t.radio = .sending) ∨
      (t.radio = .receiving ∧ (i = .receive ∨ i = .poll ∧ nextAutomode s = false)) := by
  cases he with
  | send _ _ _ hi => exact .inr (.inl ⟨hi, rfl⟩)
  | sendBlockWrite _ _ _ _ hi => exact .inr (.inl ⟨hi, rfl⟩)
  | receive => exact .inr (.inr ⟨rfl, .inl rfl⟩)
  | pollRearm _ _ _ ha => exact .inr (.inr ⟨rfl, .inr ⟨rfl, ha⟩⟩)
  | _ => exact .inl (by simp)

/-! There is no third value (41_state_machine.md R145). -/

theorem RadioState.ne_sending_iff {r : RadioState} : r ≠ .sending ↔ r = .receiving := by
  cases r <;> decide

theorem RadioState.ne_receiving_iff {r : RadioState} : r ≠ .receiving ↔ r = .sending := by
  cases r <;> decide

/-- Settles O37: a write of `state` that changes it comes from the other of its two values. -/
theorem radioStateHasOnlyTheseTransitions : Obligations.RadioStateHasOnlyTheseTransitions := by
  intro i s t hx hne
  obtain h | ⟨hi, ht⟩ | ⟨ht, hi⟩ := (exec_effect hx).radio_cases
  · exact absurd h hne
  · rw [ht] at hne
    exact .inl ⟨RadioState.ne_sending_iff.mp hne.symm, ht, hi⟩
  · rw [ht] at hne
    exact .inr ⟨RadioState.ne_receiving_iff.mp hne.symm, ht, hi⟩

end Sys2Proof.Machine
end

section
/-! SUPPORT. The ring buffer's commands (42_ring_buffer.md): AVAILABLE's answer, and READ's whole answer where the bytes
of the pending slot are written and lie in the arena. -/

namespace Sys2Proof.Machine

open Sys2Proof.Claims

variable {k : Params} {s : State}

/-! ## AVAILABLE -/

theorem exec_available (s : State) : exec .available s = .next (s.respond [statusByte (availFlag s)]) := rfl

/-- Settles O38: AVAILABLE places its status byte and does nothing else. -/
theorem availableComparesTheIndices : Obligations.AvailableComparesTheIndices := by
  intro s _
  have hbyte : statusByte (availFlag s) = if s.rIdx ≠ s.wIdx then 0x01#8 else 0x00#8 := by
    simp only [statusByte, availFlag, decide_eq_true_iff]
  rw [exec_available, hbyte]
  rfl

/-! ## READ -/

/-- A read of a written byte inside the arena answers it and changes nothing. -/
theorem arenaRead_done {a : Nat} {b : Byte} (h : a < k.arenaBytes) (hb : Memory.read? s.arena a = some b) :
    arenaRead k a s = .done b s := by
  rw [arenaRead, if_pos h, hb]

/-- Written bytes inside the arena are answered after their length. -/
theorem readBytes_done {a : Nat} {data : List Byte} (h : a + data.length ≤ k.arenaBytes)
    (hb : ∀ j (hj : j < data.length), Memory.read? s.arena (a + j) = some data[j]) :
    readBytes k a data.length s = .done (lengthByte data.length :: data) s := by
  rw [readBytes, memRead_done h hb, Run.andThen_done]

/-- With VL = 0 the slot's PC bytes are the data (42_ring_buffer.md R166). -/
theorem readSlot_fixed {data : List Byte} (hv : s.vl = false) (hl : data.length = s.pc.toNat)
    (hfit : slotBase s.rIdx s + data.length ≤ k.arenaBytes)
    (hb : ∀ j (hj : j < data.length), Memory.read? s.arena (slotBase s.rIdx s + j) = some data[j]) :
    readSlot k s = .done (lengthByte data.length :: data) s := by
  rw [readSlot, hv, if_neg Bool.false_ne_true, ← hl, readBytes_done hfit hb]

/-- With VL = 1 the slot's first byte, clamped to PC, says how many of the bytes after it are the data
(42_ring_buffer.md R166, R168). -/
theorem readSlot_variable {first : Byte} {data : List Byte} (hv : s.vl = true)
    (hf : Memory.read? s.arena (slotBase s.rIdx s) = some first) (hl : data.length = readLength first s)
    (hfit : slotBase s.rIdx s + 1 + data.length ≤ k.arenaBytes)
    (hb : ∀ j (hj : j < data.length), Memory.read? s.arena (slotBase s.rIdx s + 1 + j) = some data[j]) :
    readSlot k s = .done (lengthByte data.length :: data) s := by
  rw [readSlot, if_pos hv, arenaRead_done (by omega) hf, Run.andThen_done, ← hl, readBytes_done hfit hb]

theorem exec_read (s : State) : exec .read s = finish (readFrame Config.params s) := rfl

/-- With equal indices READ answers length 0 (42_ring_buffer.md R166). -/
theorem exec_read_empty (hr : s.rIdx = s.wIdx) : exec .read s = .next (s.respond [0x00#8]) := by
  rw [exec_read, readFrame, if_pos hr, finish_done]

/-- With a frame pending READ answers what its slot holds and frees the slot (42_ring_buffer.md R166). -/
theorem exec_read_pending {response : List Byte} (hr : s.rIdx ≠ s.wIdx)
    (hs : readSlot Config.params s = .done response s) :
    exec .read s = .next ((s.setReadIndex (nextIndex s.n s.rIdx)).respond response) := by
  rw [exec_read, readFrame, if_neg hr, hs, Run.andThen_done, finish_done]

/-- Settles O39: the empty answer, the slot of a fixed length, and the slot whose first byte is the length. -/
theorem readAnswersTheNextFrame : Obligations.ReadAnswersTheNextFrame := by
  intro s
  refine ⟨fun hr _ => exec_read_empty hr, fun data hr hv hl hfit hb => ?_, fun first data hr hv hf hl hfit hb => ?_⟩
  · rw [← hl] at hfit ⊢
    exact exec_read_pending hr (readSlot_fixed hv hl hfit hb)
  · rw [← hl]
    exact exec_read_pending hr (readSlot_variable hv hf hl hfit hb)

end Sys2Proof.Machine
end

section
/-! SUPPORT. Power (44_power.md): how SET_HIGHPOWER and SET_POWER end, the transactions of `MAP` in the HighPower class,
and which commands issue T_OCP_OFF. -/

namespace Sys2Proof.Machine

open Sys2Proof.Claims

variable {i : Instr} {s t : State}

/-! ## SET_HIGHPOWER (44_power.md R200) -/

theorem exec_setHighpower (s : State) : exec .setHighpower s = .next ((s.setClass .highPower).respond []) := rfl

/-- Settles O22: SET_HIGHPOWER writes HP and places the empty response, with no transaction before it. -/
theorem setHighpowerSetsTheClass : Obligations.SetHighpowerSetsTheClass := fun s _ => exec_setHighpower s

/-! ## SET_POWER (44_power.md R202, R203) -/

theorem exec_setPower (dbm : Byte) (b : Bool) (s : State) : exec (.setPower dbm b) s =
    finish ((issueAll (powerTransactions (powerMap (sext8 dbm) b s.hp)) s).andThen
      fun _ s' => .done [] (s'.setBoost (powerMap (sext8 dbm) b s.hp).boost)) := rfl

/-- SET_POWER completes with the transactions and the BOOST of `MAP` (44_power.md R203). -/
theorem completesWith_setPower (dbm : Byte) (b : Bool) (s : State) :
    completesWith (.setPower dbm b) s (powerTransactions (powerMap (sext8 dbm) b s.hp))
      (fun t => { t with boost := (powerMap (sext8 dbm) b s.hp).boost }) [] := by
  intro hc
  rw [exec_setPower, issueAll_done hc, Run.andThen_done, finish_done, State.respond, State.setBoost_responses,
    State.completedAll_responses]
  rfl

/-- The HighPower class: OCP off first exactly with boost, and then the stages and the value of the clamped level q
(44_power.md R202, R203). -/
theorem powerTransactions_highPower (p : Int) (b : Bool) {q : Int} (hq : q = min (max p (-2)) (if b then 20 else 17)) :
    powerTransactions (powerMap p b .highPower) = (if b then [.ocpOff] else []) ++
      [if q ≤ 13 then .paLevel .s1 (BitVec.ofInt 5 (q + 18)) else .paLevel .s1s2 (BitVec.ofInt 5 (q + 11))] := by
  have hclamp : clamp p (-2) (highPowerLimit b) = q := hq.symm
  simp only [powerMap, hclamp, highPowerStages, powerTransactions, powerValue]
  by_cases h13 : q ≤ 13
  · cases b <;> simp [h13]
  · cases b <;> simp [h13]

/-- Settles O23: SET_POWER completes as `MAP` says, which the Standard class computes to its one transaction and the
HighPower class to those of `powerTransactions_highPower`. -/
theorem setPowerMapsTheLevel : Obligations.SetPowerMapsTheLevel := by
  refine fun dbm b s => ⟨fun hp => ?_, fun q hp hq => ?_⟩
  · have h := completesWith_setPower dbm b s
    rw [hp] at h
    exact h
  · have h := completesWith_setPower dbm b s
    rw [hp, powerTransactions_highPower (sext8 dbm) b hq] at h
    exact h

/-! ## Which commands issue T_OCP_OFF (44_power.md R208) -/

/-- A SET_POWER with boost in the HighPower class. -/
def boostsHighPower (i : Instr) (s : State) : Prop := s.hp = .highPower ∧ ∃ dbm, i = .setPower dbm true

theorem ocpOff_mem_powerTransactions {m : PowerSetting} : .ocpOff ∈ powerTransactions m ↔ m.disableOcp = true := by
  cases h : m.disableOcp <;> simp [powerTransactions, h]

theorem powerMap_disableOcp {p : Int} {b : Bool} {hp : HardwareClass} :
    (powerMap p b hp).disableOcp = true ↔ hp = .highPower ∧ b = true := by
  cases hp <;> simp [powerMap]

/-- SET_POWER issues T_OCP_OFF with boost in the HighPower class alone (44_power.md R203, R207). -/
theorem boostsHighPower_of_ocpOff_mem {dbm : Byte} {b : Bool}
    (h : .ocpOff ∈ powerTransactions (powerMap (sext8 dbm) b s.hp)) : boostsHighPower (.setPower dbm b) s := by
  obtain ⟨hp, rfl⟩ := powerMap_disableOcp.mp (ocpOff_mem_powerTransactions.mp h)
  exact ⟨hp, dbm, rfl⟩

theorem ocpOff_notMem_armRxTransactions (boost : Bool) : .ocpOff ∉ armRxTransactions boost := by
  revert boost
  decide

theorem ocpOff_notMem_armTxTransactions (boost : Bool) : .ocpOff ∉ armTxTransactions boost := by
  revert boost
  decide

/-- T_OCP_OFF writes a ghost field, so it is not among transactions that write none (20_memory.md R54). -/
theorem readsOnly.ocpOff_notMem {ops : List Transaction} (h : readsOnly ops) : .ocpOff ∉ ops := fun hmem =>
  absurd (h .ocpOff hmem Ghost.reset) (by decide)

/-- A transaction completed before the one that stalls is one of the command's (20_memory.md R57). -/
theorem mem_of_mem_before {ops before after : List Transaction} {op o : Transaction}
    (hops : ops = before ++ op :: after) (h : o ∈ before) : o ∈ ops := hops ▸ List.mem_append_left _ h

/-! ## The trace and the ghost fields after a command -/

@[simp] theorem allocated_trace (pReq : Byte) : (allocated pReq s).trace = s.trace := rfl
@[simp] theorem allocated_ghost (pReq : Byte) : (allocated pReq s).ghost = s.ghost := rfl

/-- From s to t exactly the transactions ops have completed: they are what the trace has gained, and the ghost fields
are what they leave (10_state.md R37, 20_memory.md R54). -/
structure Completed (s t : State) (ops : List Transaction) : Prop where
  trace : t.trace = s.trace ++ ops := by simp
  ghost : t.ghost = s.ghost.afterAll ops := by simp [Ghost.afterAll]

/-- Each way a command ends has completed some transactions, with T_OCP_OFF among them in one command alone. -/
theorem Effect.completed (he : Effect i s t) : ∃ ops, Completed s t ops ∧ (.ocpOff ∈ ops → boostsHighPower i s) := by
  have hrx := ocpOff_notMem_armRxTransactions s.boost
  have htx := ocpOff_notMem_armTxTransactions s.boost
  cases he with
  | frame vl ad => exact ⟨[.cfgFrame vl ad], {}, by simp⟩
  | aes e => exact ⟨[.cfgAes e], {}, by simp⟩
  | payload _ _ op _ _ _ hop => exact ⟨[op], {}, by simp [hop]⟩
  | power => exact ⟨_, {}, boostsHighPower_of_ocpOff_mem⟩
  | powerBlock _ _ _ before _ _ _ hops =>
    exact ⟨before, {}, fun h => boostsHighPower_of_ocpOff_mem (mem_of_mem_before hops h)⟩
  | receive => exact ⟨armRxTransactions s.boost, {}, (absurd · hrx)⟩
  | receiveBlock _ before _ _ _ _ hops => exact ⟨before, {}, fun h => absurd (mem_of_mem_before hops h) hrx⟩
  | send _ _ frame => exact ⟨armTxTransactions s.boost ++ [.fifoWrite frame], {}, by simp [htx]⟩
  | sendBlock _ _ before _ _ _ _ _ hops => exact ⟨before, {}, fun h => absurd (mem_of_mem_before hops h) htx⟩
  | sendBlockWrite => exact ⟨armTxTransactions s.boost, {}, (absurd · htx)⟩
  | pollIdle => exact ⟨[.flags1], {}, by simp⟩
  | pollDrain _ ops _ _ _ _ _ _ _ hops | pollDrainBlock _ ops _ _ _ _ _ _ _ hops =>
    exact ⟨ops, { ghost := (Ghost.foldl_readsOnly hops s.ghost).symm }, (absurd · hops.ocpOff_notMem)⟩
  | pollRearm => exact ⟨.flags1 :: armRxTransactions s.boost, {}, by simp [hrx]⟩
  | pollRearmBlock _ before _ _ _ _ _ _ hops =>
    exact ⟨.flags1 :: before, {}, by simp [mt (mem_of_mem_before hops) hrx]⟩
  | _ => exact ⟨[], {}, by simp⟩

/-- Transactions leave the OCP off if T_OCP_OFF is among them, and as it was otherwise (20_memory.md R54). -/
theorem Ghost.afterAll_ocp (g : Ghost) (ops : List Transaction) :
    (g.afterAll ops).ocp = if .ocpOff ∈ ops then .off else g.ocp := by
  induction ops generalizing g with
  | nil => rfl
  | cons op ops ih =>
    rw [show g.afterAll (op :: ops) = (g.after op).afterAll ops from rfl, ih]
    cases op <;> simp [Ghost.after]

/-- Settles O25: the OCP's ghost value and the trace both follow from the transactions the command has completed. -/
theorem ocpIsNeverReEnabled : Obligations.OcpIsNeverReEnabled := by
  intro i s t hx
  obtain ⟨ops, h, honly⟩ := (exec_effect hx).completed
  have hocp : t.ghost.ocp = if .ocpOff ∈ ops then .off else s.ghost.ocp := by rw [h.ghost, Ghost.afterAll_ocp]
  refine ⟨fun hoff => ?_, fun hne => ?_, fun ops' htrace hmem => ?_⟩
  · rw [hocp, hoff, ite_self]
  · by_contra hno
    rw [if_neg (mt honly hno)] at hocp
    exact hne hocp
  · rw [h.trace, List.append_cancel_left_eq] at htrace
    exact honly (htrace ▸ hmem)

end Sys2Proof.Machine
end

section
/-! SUPPORT. Faults are precise (60_exceptions.md R222): of all the ways a command, or a step, ends, the fault entry
alone writes FAULT, and it writes nothing else. -/

namespace Sys2Proof.Machine

open Sys2Proof.Claims

variable {i : Instr} {s t : State}

/-- A command either keeps FAULT or does nothing but write it (60_exceptions.md R221, R222). -/
theorem Effect.fault_cases (he : Effect i s t) :
    t.fault = s.fault ∨ ∃ code, t = s.setFault code (encodeWord i) := by
  cases he with
  | raised _ _ code => exact .inr ⟨code, rfl⟩
  | _ => exact .inl (by simp)

/-- A command that leads from no fault to a fault is the fault entry, on the state it starts in. -/
theorem exec_eq_setFault (hs : s.fault = none) (hx : exec i s = .next t) (ht : t.fault ≠ none) :
    ∃ code, t = s.setFault code (encodeWord i) :=
  (exec_effect hx).fault_cases.resolve_left fun h => ht (h.trans hs)

/-- Settles O12: a reset leaves no fault, so a step that faults takes a command, and faults in it or on its illegal
word. -/
theorem faultsArePrecise : Obligations.FaultsArePrecise := by
  refine ⟨fun _ _ _ hs hx ht => exec_eq_setFault hs hx ht, fun s t hs hstep ht => ?_⟩
  obtain rfl | ⟨event, rest, cursor, hnext, ⟨-, rfl⟩ | ⟨-, -, ⟨_, _, -, -, -, rfl⟩ | ⟨bytes, rfl, hrun⟩⟩⟩ :=
    step_cases hstep
  · exact absurd hs ht
  · exact absurd rfl ht
  · exact absurd rfl ht
  · have hfault : ∃ code word, t = (s.withPort rest cursor).setFault code word := by
      obtain ⟨i, -, -, hx⟩ | ⟨w, -, rfl⟩ := hrun
      · obtain ⟨code, rfl⟩ := exec_eq_setFault (s := s.withPort rest cursor) hs hx ht
        exact ⟨code, encodeWord i, rfl⟩
      · exact ⟨.illegalCommand, w, rfl⟩
    obtain ⟨code, word, rfl⟩ := hfault
    exact ⟨bytes, rest, cursor, code, word, nextEvent_eq_some.mp hnext, rfl⟩

end Sys2Proof.Machine
end

section
/-! SUPPORT. The decoder and the encoder are inverse to each other (30_encoding.md R82, R83, R87, R94): what the fields
of an encoded word are, how a word of a row is its pattern with the fields in place, and both directions from these. -/

namespace Sys2Proof

open Sys2Proof.Claims

/-! ## Words and bytes (30_encoding.md R80) -/

@[simp] theorem wordOfBytes_highByte_lowByte (w : CommandWord) : wordOfBytes (highByte w) (lowByte w) = w :=
  (BitVec.extractLsb'_append_extractLsb'_eq_extractLsb' rfl).trans BitVec.extractLsb'_eq_self

@[simp] theorem highByte_wordOfBytes (high low : Byte) : highByte (wordOfBytes high low) = high :=
  BitVec.extractLsb'_append_eq_left

@[simp] theorem lowByte_wordOfBytes (high low : Byte) : lowByte (wordOfBytes high low) = low :=
  BitVec.extractLsb'_append_eq_right

/-- The decoder reads the word and the data phase that the link carries. -/
theorem decode_linkBytes (w : CommandWord) (data : List Byte) : decode (linkBytes w data) = decodeCommand w data := by
  rw [linkBytes, decode, wordOfBytes_highByte_lowByte]

/-- A byte string of at least a word carries that word and the rest as its data phase. -/
theorem linkBytes_wordOfBytes (high low : Byte) (data : List Byte) :
    linkBytes (wordOfBytes high low) data = high :: low :: data := by
  rw [linkBytes, highByte_wordOfBytes, lowByte_wordOfBytes]

/-! ## Reading the fields of an encoded word -/

@[simp] theorem immField_immediate (b : Byte) : immField (immediate b) = b := by
  revert b
  decide

/-- The IMM byte of a word whose other bits are those of p. -/
theorem immField_or_immediate {p : CommandWord} (hp : immField p = 0#8) (b : Byte) :
    immField (p ||| immediate b) = b := by
  have h : immField (p ||| immediate b) = immField p ||| immField (immediate b) := BitVec.extractLsb'_or
  rw [h, hp, immField_immediate, BitVec.zero_or]

/-- The IMM byte is no part of the flags. -/
theorem flagField_or_immediate (p : CommandWord) (b : Byte) : flagField (p ||| immediate b) = flagField p := by
  have h : flagField (p ||| immediate b) = flagField p ||| flagField (immediate b) := BitVec.extractLsb'_or
  have hz : ∀ b : Byte, flagField (immediate b) = 0#4 := by decide
  rw [h, hz, BitVec.or_zero]

/-- The word of an instruction selects the instruction's row (30_encoding.md R87). -/
theorem classify_encodeWord (i : Instr) : classify (encodeWord i) = .row i.opcode := by
  cases i with
  | cfgFrame vl ad => exact Laws.SelectsRow.cfgFrame vl ad
  | cfgAes e => exact Laws.SelectsRow.cfgAes e
  | cfgSlots n => exact Laws.SelectsRow.cfgSlots n
  | cfgPayload p => exact Laws.SelectsRow.cfgPayload p
  | setHighpower => exact Laws.SelectsRow.setHighpower
  | setPower d b => exact Laws.SelectsRow.setPower d b
  | receive => exact Laws.SelectsRow.receive
  | poll => exact Laws.SelectsRow.poll
  | available => exact Laws.SelectsRow.available
  | read => exact Laws.SelectsRow.read
  | canSend => exact Laws.SelectsRow.canSend
  | send p => exact Laws.SelectsRow.send p
  | sendAddr a p => exact Laws.SelectsRow.sendAddr a p
  | sendVar p => exact Laws.SelectsRow.sendVar p
  | sendAddrVar a p => exact Laws.SelectsRow.sendAddrVar a p

/-- The word of a well-formed instruction asks for the instruction's data phase (30_encoding.md R82). -/
theorem dataLength_encodeWord {i : Instr} (h : i.wellFormed = true) :
    dataLength (encodeWord i) = (encodeData i).length := by
  cases i with
  | cfgFrame vl ad => exact Laws.DataPhase.cfgFrame vl ad h
  | cfgAes e => exact Laws.DataPhase.cfgAes e h
  | cfgSlots n => exact Laws.DataPhase.cfgSlots n h
  | cfgPayload p => exact Laws.DataPhase.cfgPayload p h
  | setHighpower => exact Laws.DataPhase.setHighpower h
  | setPower d b => exact Laws.DataPhase.setPower d b h
  | receive => exact Laws.DataPhase.receive h
  | poll => exact Laws.DataPhase.poll h
  | available => exact Laws.DataPhase.available h
  | read => exact Laws.DataPhase.read h
  | canSend => exact Laws.DataPhase.canSend h
  | send p => exact Laws.DataPhase.send p h
  | sendAddr a p => exact Laws.DataPhase.sendAddr a p h
  | sendVar p => exact Laws.DataPhase.sendVar p h
  | sendAddrVar a p => exact Laws.DataPhase.sendAddrVar a p h

/-- The operands read back from the word and the data phase of an instruction (30_encoding.md R85, R86). -/
theorem operands_encode (i : Instr) : operands i.opcode (encodeWord i) (encodeData i) = .ok i := by
  cases i with
  | cfgFrame vl ad => revert vl ad; decide
  | cfgAes e => revert e; decide
  | cfgSlots n => exact congrArg (Except.ok ∘ Instr.cfgSlots) (immField_or_immediate (p := 0x3000#16) (by decide) n)
  | cfgPayload p => exact congrArg (Except.ok ∘ Instr.cfgPayload) (immField_or_immediate (p := 0x4000#16) (by decide) p)
  | setPower d b =>
    have hz : immField (0x6000#16 ||| flagAt b 8) = 0#8 := by revert b; decide
    have hb : (flagField (0x6000#16 ||| flagAt b 8)).getLsbD 0 = b := by revert b; decide
    rw [Instr.opcode, operands, encodeWord, immField_or_immediate hz, flagField_or_immediate, hb]
  | _ => rfl

/-- Settles O1: the length check passes, the word selects its own row, and that row's operands read back. -/
theorem decodeOfEncodeIsTheInstruction : Obligations.DecodeOfEncodeIsTheInstruction := by
  intro i hwf
  rw [encode, decode_linkBytes, decodeCommand, if_pos (dataLength_encodeWord hwf).symm, classify_encodeWord]
  exact operands_encode i

/-! ## A word of a row, from its pattern and its fields -/

/-- A word that selects a row has the bits of the row's pattern under its mask (30_encoding.md R87). -/
theorem exists_row_of_classify {w : CommandWord} {op : Opcode} (h : classify w = .row op) :
    ∃ r ∈ opcodeMap, r.opcode = op ∧ w &&& r.mask = r.pattern := by
  unfold classify at h
  split at h
  · rename_i r hr
    exact ⟨r, List.mem_of_find?_eq_some hr, WordClass.row.inj h,
      eq_of_beq (List.find?_some (p := fun r : OpcodeRow => r.selects w) hr)⟩
  · split at h <;> cases h

/-- A word is what a mask leaves of it, with what the complement of the mask leaves of it. -/
theorem eq_pattern_or {w mask p : CommandWord} (h : w &&& mask = p) : w = p ||| (w &&& ~~~mask) := by
  rw [← h, ← BitVec.and_or_distrib_left, BitVec.or_not_self, BitVec.and_allOnes]

theorem and_immediate_mask (w : CommandWord) : w &&& 0x00FF#16 = immediate (immField w) := by
  ext i hi
  interval_cases i <;> simp [immediate, immField]

theorem and_flag0_mask (w : CommandWord) : w &&& 0x0100#16 = flagAt ((flagField w).getLsbD 0) 8 := by
  ext i hi
  interval_cases i <;> simp [flagAt, flagField]

theorem and_flag1_mask (w : CommandWord) : w &&& 0x0200#16 = flagAt ((flagField w).getLsbD 1) 9 := by
  ext i hi
  interval_cases i <;> simp [flagAt, flagField]

theorem eq_pattern_or_immediate {w p : CommandWord} (h : w &&& 0xFF00#16 = p) : w = p ||| immediate (immField w) := by
  have := eq_pattern_or h
  rwa [show ~~~0xFF00#16 = 0x00FF#16 from rfl, and_immediate_mask] at this

theorem eq_pattern_or_flag {w p : CommandWord} (h : w &&& 0xFEFF#16 = p) :
    w = p ||| flagAt ((flagField w).getLsbD 0) 8 := by
  have := eq_pattern_or h
  rwa [show ~~~0xFEFF#16 = 0x0100#16 from rfl, and_flag0_mask] at this

theorem eq_pattern_or_flags {w p : CommandWord} (h : w &&& 0xFCFF#16 = p) :
    w = p ||| flagAt ((flagField w).getLsbD 1) 9 ||| flagAt ((flagField w).getLsbD 0) 8 := by
  have := eq_pattern_or h
  rwa [show ~~~0xFCFF#16 = 0x0200#16 ||| 0x0100#16 from rfl, BitVec.and_or_distrib_left, and_flag1_mask,
    and_flag0_mask, ← BitVec.or_assoc] at this

theorem eq_pattern_or_flag_immediate {w p : CommandWord} (h : w &&& 0xFE00#16 = p) :
    w = p ||| flagAt ((flagField w).getLsbD 0) 8 ||| immediate (immField w) := by
  have := eq_pattern_or h
  rwa [show ~~~0xFE00#16 = 0x0100#16 ||| 0x00FF#16 from rfl, BitVec.and_or_distrib_left, and_flag0_mask,
    and_immediate_mask, ← BitVec.or_assoc] at this

theorem eq_pattern {w p : CommandWord} (h : w &&& 0xFFFF#16 = p) : w = p := by
  rw [← h, show 0xFFFF#16 = BitVec.allOnes 16 from rfl, BitVec.and_allOnes]

/-- The instruction of a row without a data phase, whose word is w, is what the link carries as w
(30_encoding.md R82). -/
theorem encode_of_word {w : CommandWord} {data : List Byte} {i j : Instr} (ho : Except.ok (ε := DecodeError) j = .ok i)
    (hlen : data.length = dataLength w) (hw : w = encodeWord j) (hwf : j.wellFormed = true := by rfl)
    (hd : encodeData j = [] := by rfl) : i.wellFormed = true ∧ encodeWord i = w ∧ encodeData i = data := by
  obtain rfl := Except.ok.inj ho
  rw [hw, dataLength_encodeWord hwf, hd] at hlen
  exact ⟨hwf, hw.symm, hd.trans (List.length_eq_zero_iff.mp hlen).symm⟩

/-- A payload as long as the IMM byte says fits, and its length stands in that byte (30_encoding.md R82). -/
theorem word_of_payload {w p : CommandWord} {payload : List Byte} (hm : w &&& 0xFF00#16 = p)
    (hl : payload.length = (immField w).toNat) : payloadFits payload = true ∧ p ||| lengthImmediate payload = w := by
  have := (immField w).isLt
  refine ⟨by simp only [payloadFits, decide_eq_true_eq]; omega, ?_⟩
  rw [lengthImmediate, hl, BitVec.ofNat_toNat, BitVec.setWidth_eq, ← eq_pattern_or_immediate hm]

/-- The address is the first data byte of an addressed variant (30_encoding.md R82). -/
theorem splitAddressed_eq_ok {mk : Byte → List Byte → Instr} {data : List Byte} {i : Instr}
    (h : splitAddressed mk data = .ok i) : ∃ address payload, data = address :: payload ∧ i = mk address payload := by
  cases data with
  | nil => cases h
  | cons address payload => exact ⟨address, payload, rfl, (Except.ok.inj h).symm⟩

/-- The operands of a word that selects a row, with a data phase of the length it asks for, are those of a well-formed
instruction whose word and data phase these are: one case for each row, in the order of the opcode map. -/
theorem encode_of_operands {op : Opcode} {w : CommandWord} {data : List Byte} {i : Instr} (hrow : classify w = .row op)
    (hlen : data.length = dataLength w) (ho : operands op w data = .ok i) :
    i.wellFormed = true ∧ encodeWord i = w ∧ encodeData i = data := by
  obtain ⟨r, hr, rfl, hm⟩ := exists_row_of_classify hrow
  simp only [opcodeMap, List.mem_cons, List.not_mem_nil, or_false] at hr
  rcases hr with rfl | rfl | rfl | rfl | rfl | rfl | rfl | rfl | rfl | rfl | rfl | rfl | rfl | rfl | rfl
  · exact encode_of_word ho hlen (eq_pattern_or_flags hm)
  · exact encode_of_word ho hlen (eq_pattern_or_flag hm)
  · exact encode_of_word ho hlen (eq_pattern_or_immediate hm)
  · exact encode_of_word ho hlen (eq_pattern_or_immediate hm)
  · exact encode_of_word ho hlen (eq_pattern hm)
  · exact encode_of_word ho hlen (eq_pattern_or_flag_immediate hm)
  · exact encode_of_word ho hlen (eq_pattern hm)
  · exact encode_of_word ho hlen (eq_pattern hm)
  · exact encode_of_word ho hlen (eq_pattern hm)
  · exact encode_of_word ho hlen (eq_pattern hm)
  · exact encode_of_word ho hlen (eq_pattern hm)
  · obtain rfl := Except.ok.inj ho
    have hl := hlen.trans ((congrArg dataLength (eq_pattern_or_immediate hm)).trans (dataLength_send_word _))
    obtain ⟨hwf, hw⟩ := word_of_payload hm hl
    exact ⟨hwf, hw, rfl⟩
  · obtain ⟨address, payload, rfl, rfl⟩ := splitAddressed_eq_ok ho
    have hl := hlen.trans ((congrArg dataLength (eq_pattern_or_immediate hm)).trans (dataLength_sendAddr_word _))
    obtain ⟨hwf, hw⟩ := word_of_payload hm (Nat.succ.inj hl)
    exact ⟨hwf, hw, rfl⟩
  · obtain rfl := Except.ok.inj ho
    have hl := hlen.trans ((congrArg dataLength (eq_pattern_or_immediate hm)).trans (dataLength_sendVar_word _))
    obtain ⟨hwf, hw⟩ := word_of_payload hm hl
    exact ⟨hwf, hw, rfl⟩
  · obtain ⟨address, payload, rfl, rfl⟩ := splitAddressed_eq_ok ho
    have hl := hlen.trans ((congrArg dataLength (eq_pattern_or_immediate hm)).trans (dataLength_sendAddrVar_word _))
    obtain ⟨hwf, hw⟩ := word_of_payload hm (Nat.succ.inj hl)
    exact ⟨hwf, hw, rfl⟩

/-- Settles O2: a byte string that decodes is a word of a row with the data phase the word asks for. -/
theorem decodedBytesAreTheEncoding : Obligations.DecodedBytesAreTheEncoding := by
  intro bytes i h
  match bytes with
  | high :: low :: data =>
    simp only [decode, decodeCommand] at h
    split at h
    · rename_i hlen
      split at h
      · obtain ⟨hwf, hw, hd⟩ := encode_of_operands ‹_› hlen h
        exact ⟨hwf, by rw [encode, hw, hd, linkBytes_wordOfBytes]⟩
      · cases h
      · cases h
    · cases h
  | [] | [_] => cases h

/-! ## The opcode map (30_encoding.md R87) -/

/-- A word that matches two rows makes their patterns agree where both masks look. -/
theorem patterns_agree {w m m' p p' : CommandWord} (h : w &&& m = p) (h' : w &&& m' = p') : p &&& m' = p' &&& m := by
  rw [← h, ← h', BitVec.and_assoc, BitVec.and_comm m m', ← BitVec.and_assoc]

/-- No two printed rows have patterns that agree so. -/
theorem eq_of_patterns_agree : ∀ j k : Fin printedRows.length,
    printedRows[j].1 &&& printedRows[k].2 = printedRows[k].1 &&& printedRows[j].2 → j = k := by decide

/-- Settles O3: two different printed rows have patterns that differ where both masks look. -/
theorem noWordMatchesTwoOpcodeRows : Obligations.NoWordMatchesTwoOpcodeRows :=
  ⟨by decide, fun _ j k hj hk h h' =>
    Fin.mk.inj (eq_of_patterns_agree ⟨j, hj⟩ ⟨k, hk⟩ (patterns_agree h h'))⟩

/-- Settles O4: each of these words is decoded by evaluation. -/
theorem printedWordsDecodeToTheirCommands : Obligations.PrintedWordsDecodeToTheirCommands := by
  unfold Obligations.PrintedWordsDecodeToTheirCommands
  decide

end Sys2Proof
end

section
/-! SUPPORT. The command port (10_state.md R21, 20_memory.md R60): what a step does with each event the host presents,
which words the decoder refuses or calls illegal (30_encoding.md R90, R91), and reset (70_reset_and_hazards.md R250). -/

namespace Sys2Proof.Machine

open Sys2Proof.Claims

variable {s t : State} {event : HostEvent} {bytes : List Byte} {rest : List HostEvent} {cursor : Option Nat}

/-! ## A step, by the event presented -/

theorem accepting_iff : accepting s = true ↔ acceptsCommands s := by
  simp [accepting, acceptsCommands]

/-- The port offers what the event presented next makes of it. -/
theorem offer_of_hostPresents (h : hostPresents s event rest cursor) :
    offer s = offerEvent (accepting s) event (s.withPort rest cursor) := by
  rw [offer, nextEvent_eq_some.mpr h]

theorem step_of_reset (h : hostPresents s .reset rest cursor) :
    step s = .next (s.withPort rest cursor).applyReset := by
  rw [step, offer_of_hostPresents h, offerEvent]

/-- A CORE that accepts no command waits in front of one (60_exceptions.md R221, 20_memory.md R57). -/
theorem step_of_command_waits (ha : ¬ acceptsCommands s) (h : hostPresents s (.command bytes) rest cursor) :
    step s = .next s := by
  rw [step, offer_of_hostPresents h, offerEvent, if_neg (mt accepting_iff.mp ha)]

theorem step_of_command (ha : acceptsCommands s) (h : hostPresents s (.command bytes) rest cursor) :
    step s = match decode bytes with
      | .ok i => exec i (s.withPort rest cursor)
      | .error (.illegal w) => .next ((s.withPort rest cursor).setFault .illegalCommand w)
      | .error (.outOfScope w) => .refused (.outOfScope w)
      | .error .illFormed => .refused .illFormed := by
  rw [step, offer_of_hostPresents h, offerEvent, if_pos (accepting_iff.mpr ha), takeCommand]
  rcases decode bytes with (_ | _ | _) | _ <;> rfl

/-- A CORE that accepts no command is reset alone (70_reset_and_hazards.md R250). -/
theorem step_of_abandoned_waits (ha : ¬ acceptsCommands s) (h : hostPresents s (.abandoned bytes) rest cursor) :
    step s = .next (s.withPort rest cursor).applyReset := by
  rw [step, offer_of_hostPresents h, offerEvent, if_neg (mt accepting_iff.mp ha)]

theorem step_of_abandoned (ha : acceptsCommands s) (h : hostPresents s (.abandoned bytes) rest cursor) :
    step s = match decode bytes with
      | .ok i => abandon s.responses (exec i (s.withPort rest cursor))
      | .error (.illegal _) => .next (s.withPort rest cursor).applyReset
      | .error (.outOfScope w) => .refused (.outOfScope w)
      | .error .illFormed => .refused .illFormed := by
  rw [step, offer_of_hostPresents h, offerEvent, if_pos (accepting_iff.mpr ha), takeAbandoned]
  rcases decode bytes with (_ | _ | _) | _ <;> rfl

/-! ## The words that are no command (30_encoding.md R83, R90, R91) -/

/-- The two readings of the length of a data phase agree (30_encoding.md R82). -/
theorem dataBytesOf_eq (w : CommandWord) : dataBytesOf w = dataLength w := by
  have hbit : (w.extractLsb' 8 1).toNat = ((flagField w).getLsbD 0).toNat := by
    rw [flagField, BitVec.getLsbD_extractLsb', BitVec.getLsbD_eq_extractLsb']
    generalize w.extractLsb' 8 1 = b
    revert b
    decide
  rw [dataBytesOf, dataLength, hbit]
  rfl

/-- A data phase of the wrong length makes any word ill formed (30_encoding.md R83). -/
theorem decode_of_wrong_length {w : CommandWord} {data : List Byte} (h : data.length ≠ dataBytesOf w) :
    decode (onLink w data) = .error .illFormed := by
  rw [dataBytesOf_eq] at h
  exact (decode_linkBytes w data).trans (if_neg h)

/-- With the right length a word is what its class says (30_encoding.md R93). -/
theorem decode_of_right_length {w : CommandWord} {data : List Byte} (h : data.length = dataBytesOf w) :
    decode (onLink w data) = match classify w with
      | .row op => operands op w data
      | .outOfScope => .error (.outOfScope w)
      | .illegal => .error (.illegal w) := by
  rw [dataBytesOf_eq] at h
  exact (decode_linkBytes w data).trans (if_pos h)

/-- Each row's mask holds the whole field OPC, so a word of the row has the OPC of its pattern, which is neither 0xD nor
0xE (30_encoding.md R87, R91). -/
theorem opcField_of_selects {r : OpcodeRow} (hr : r ∈ opcodeMap) {w : CommandWord} (h : r.selects w = true) :
    opcField w ≠ 0xD#4 ∧ opcField w ≠ 0xE#4 := by
  have hmask : ∀ r ∈ opcodeMap, opcField r.mask = BitVec.allOnes 4 := by decide
  have hpattern : ∀ r ∈ opcodeMap, opcField r.pattern ≠ 0xD#4 ∧ opcField r.pattern ≠ 0xE#4 := by decide
  have hand : opcField (w &&& r.mask) = opcField w &&& opcField r.mask := BitVec.extractLsb'_and
  have heq : opcField w = opcField r.pattern := by
    rw [← eq_of_beq h, hand, hmask r hr, BitVec.and_allOnes]
  rw [heq]
  exact hpattern r hr

theorem classify_of_no_row {w : CommandWord} (h : ∀ r ∈ opcodeMap, r.selects w ≠ true) :
    classify w = if opcField w = 0xD#4 ∨ opcField w = 0xE#4 then .outOfScope else .illegal := by
  rw [classify, List.find?_eq_none.mpr h]

/-- A word of OPC 0xD or 0xE is out of scope (30_encoding.md R91). -/
theorem classify_outOfScope {w : CommandWord} (h : opcField w = 0xD#4 ∨ opcField w = 0xE#4) :
    classify w = .outOfScope := by
  have hno : ∀ r ∈ opcodeMap, r.selects w ≠ true := fun r hr hs =>
    have hopc := opcField_of_selects hr hs
    h.elim hopc.1 hopc.2
  rw [classify_of_no_row hno, if_pos h]

/-- A word that matches no printed row selects no row of the decoder (30_encoding.md R87). -/
theorem selects_ne_of_matchesNoRow {w : CommandWord} (h : matchesNoRow w) : ∀ r ∈ opcodeMap, r.selects w ≠ true := by
  intro r hr hs
  refine h (r.pattern, r.mask) ?_ (eq_of_beq hs)
  rw [← noWordMatchesTwoOpcodeRows.1]
  exact List.mem_map_of_mem hr

/-! ## What a step takes from the port (10_state.md R21) -/

@[simp] theorem allocated_port (pReq : Byte) : (allocated pReq s).port = s.port := rfl
@[simp] theorem allocated_hostCursor (pReq : Byte) : (allocated pReq s).hostCursor = s.hostCursor := rfl

/-- No command changes what the host presents. -/
theorem Effect.host_inputs {i : Instr} (he : Effect i s t) : t.port = s.port ∧ t.hostCursor = s.hostCursor := by
  cases he <;> simp

/-- A step that leads to a next state has taken the event presented, or is a wait of a CORE that accepts no command in
front of one. -/
theorem step_takes_event (h : hostPresents s event rest cursor) (hs : step s = .next t) :
    (t.port = rest ∧ t.hostCursor = cursor) ∨
      (t = s ∧ ¬ acceptsCommands s ∧ ∃ bytes, event = .command bytes) := by
  by_cases ha : acceptsCommands s
  · left
    cases event with
    | reset =>
      obtain rfl := Host.Outcome.next.inj ((step_of_reset h).symm.trans hs)
      exact ⟨rfl, rfl⟩
    | command bytes =>
      rw [step_of_command ha h] at hs
      split at hs
      · exact (exec_effect hs).host_inputs
      · obtain rfl := Host.Outcome.next.inj hs
        exact ⟨rfl, rfl⟩
      · cases hs
      · cases hs
    | abandoned bytes =>
      rw [step_of_abandoned ha h] at hs
      split at hs
      · obtain ⟨u, hu, rfl⟩ := abandon_eq_next.mp hs
        exact (exec_effect hu).host_inputs
      · obtain rfl := Host.Outcome.next.inj hs
        exact ⟨rfl, rfl⟩
      · cases hs
      · cases hs
  · cases event with
    | reset =>
      obtain rfl := Host.Outcome.next.inj ((step_of_reset h).symm.trans hs)
      exact .inl ⟨rfl, rfl⟩
    | command bytes =>
      exact .inr ⟨Host.Outcome.next.inj (hs.symm.trans (step_of_command_waits ha h)), ha, bytes, rfl⟩
    | abandoned bytes =>
      obtain rfl := Host.Outcome.next.inj ((step_of_abandoned_waits ha h).symm.trans hs)
      exact .inl ⟨rfl, rfl⟩

/-! ## The statements -/

/-- Settles O5: a command accepted and decoded is run. -/
theorem stepRunsTheDecodedCommand : Obligations.StepRunsTheDecodedCommand := by
  intro s bytes rest cursor i ha h hd
  rw [step_of_command ha h, hd]
  rfl

/-- Settles O6: an illegal word is decoded as such, and then the fault entry writes FAULT alone. -/
theorem illegalWordsFault : Obligations.IllegalWordsFault := by
  intro s w data rest cursor ha h hlen hno hD hE
  have hd : decode (onLink w data) = .error (.illegal w) := by
    have hopc : ¬ (opcField w = 0xD#4 ∨ opcField w = 0xE#4) := not_or.mpr ⟨hD, hE⟩
    rw [decode_of_right_length hlen, classify_of_no_row (selects_ne_of_matchesNoRow hno), if_neg hopc]
  rw [step_of_command ha h, hd]
  rfl

/-- Settles O7: the length is checked first, and a word of OPC 0xD or 0xE has no data phase. -/
theorem outOfScopeAndIllFormedCommandsAreRefused : Obligations.OutOfScopeAndIllFormedCommandsAreRefused := by
  intro s w data rest cursor ha h
  refine ⟨?_, fun hlen => ?_⟩
  · rintro rfl hopc
    have hlen : dataBytesOf w = 0 := if_neg fun hC => by rw [hC] at hopc; revert hopc; decide
    have hd : decode (onLink w []) = .error (.outOfScope w) := by
      rw [decode_of_right_length (data := []) hlen.symm, classify_outOfScope hopc]
    rw [step_of_command ha h, hd]
  · rw [step_of_command ha h, decode_of_wrong_length hlen]

/-- Settles O8: with no reset to come the event presented is a command, which such a CORE does not accept, or there is
none. -/
theorem faultedOrBlockedCoreWaitsForReset : Obligations.FaultedOrBlockedCoreWaitsForReset := by
  intro s hs hreset
  cases hn : s.nextEvent with
  | none => rw [step, offer, hn]
  | some next =>
    obtain ⟨event, rest, cursor⟩ := next
    have hp : hostPresents s event rest cursor := nextEvent_eq_some.mp hn
    obtain ⟨bytes, rfl⟩ : ∃ bytes, event = .command bytes := by
      by_contra hno
      exact hreset ⟨event, rest, cursor, hp, fun bytes he => hno ⟨bytes, he⟩⟩
    refine step_of_command_waits ?_ hp
    rintro ⟨hf, hb⟩
    obtain h | h | h := hs
    · exact h hf
    · exact h hb
    · rw [nextEvent_eq_none.mpr h] at hn
      cases hn

/-- Settles O9: a reset event is taken in every state. -/
theorem resetLeavesEveryState : Obligations.ResetLeavesEveryState := fun _ _ _ h => step_of_reset h

/-- Settles O10: the table is the definition of the reset state. -/
theorem resetValues : Obligations.ResetValues := by
  unfold Obligations.ResetValues
  decide

/-- Settles O57: by whether the CORE accepts the command, and by what the decoder makes of it. -/
theorem resetAbandonsTheCommandInProgress : Obligations.ResetAbandonsTheCommandInProgress := by
  intro s bytes rest cursor h
  refine ⟨fun i t ha hd hx => ?_, fun hreset => ?_, fun ha => ⟨fun w hd => ?_, fun hd => ?_⟩⟩
  · have hx : exec i (s.withPort rest cursor) = .next t := hx
    obtain ⟨hport, hcursor⟩ := (exec_effect hx).host_inputs
    rw [step_of_abandoned ha h, hd]
    refine abandon_eq_next.mpr ⟨t, hx, ?_⟩
    rw [State.abandonCommand, State.applyReset, hport, hcursor]
    rfl
  · by_cases ha : acceptsCommands s
    · obtain ⟨w, hd⟩ := hreset.resolve_left (not_not.mpr ha)
      rw [step_of_abandoned ha h, hd]
      rfl
    · exact step_of_abandoned_waits ha h
  · rw [step_of_abandoned ha h, hd]
  · rw [step_of_abandoned ha h, hd]

/-- Settles O58: with nothing listed the event presented is the next one of the host without end. -/
theorem hostWithoutEndKeepsPresenting : Obligations.HostWithoutEndKeepsPresenting := by
  intro s t k hport hcursor hs
  have h : hostPresents s (Config.hostEvent k) [] (some (k + 1)) := .inr ⟨hport, rfl, k, hcursor, rfl, rfl⟩
  obtain ⟨hp, hc⟩ | ⟨rfl, hw⟩ := step_takes_event h hs
  · exact ⟨hp, .inl hc⟩
  · exact ⟨hport, .inr ⟨rfl, hw⟩⟩

end Sys2Proof.Machine
end

section
/-! SUPPORT. The ring of slots (20_memory.md R50, 42_ring_buffer.md R161 to R165): the number of pending frames as the
indices move, where a slot lies in the arena, and which commands write the arena. -/

namespace Sys2Proof.Machine

open Sys2Proof.Claims

variable {i : Instr} {k : Params} {s t : State}

/-! ## Indices modulo N -/

/-- Reduction modulo n of a sum of two numbers below n. -/
theorem mod_of_lt_two_mul {a n : Nat} (h : a < 2 * n) : a % n = if a < n then a else a - n := by
  split
  · exact Nat.mod_eq_of_lt ‹_›
  · rw [Nat.mod_eq_sub_mod (by omega), Nat.mod_eq_of_lt (by omega)]

/-- With equal indices no frame is pending (42_ring_buffer.md R164). -/
theorem pendingCount_of_indices_eq (h : s.rIdx = s.wIdx) : pendingCount s = 0 := by
  simp [pendingCount, h]

namespace CoreInv

variable (h : CoreInv k s) (hp : s.phase = .ready)
include h hp

/-- Fewer than N frames are ever pending (42_ring_buffer.md R162). -/
theorem pendingCount_lt : pendingCount s < s.n.toNat :=
  Nat.mod_lt _ (h.slotCount hp).1

/-- The count takes r_idx to w_idx, at most once around the ring (42_ring_buffer.md R164). -/
theorem rIdx_add_pendingCount : s.rIdx.toNat + pendingCount s = s.wIdx.toNat ∨
    s.rIdx.toNat + pendingCount s = s.wIdx.toNat + s.n.toNat := by
  obtain ⟨hw, hr⟩ := h.indices hp
  rw [pendingCount, mod_of_lt_two_mul (by omega)]
  split <;> omega

theorem pendingCount_eq_zero_iff : pendingCount s = 0 ↔ s.rIdx = s.wIdx := by
  refine ⟨fun hz => BitVec.eq_of_toNat_eq ?_, pendingCount_of_indices_eq⟩
  obtain ⟨hw, hr⟩ := h.indices hp
  have hk := h.rIdx_add_pendingCount hp
  omega

/-- The slot w_idx comes right after the pending ones (42_ring_buffer.md R161). -/
theorem slot_after_pending : (s.rIdx.toNat + pendingCount s) % s.n.toNat = s.wIdx.toNat := by
  obtain ⟨hw, hr⟩ := h.indices hp
  have hk := h.rIdx_add_pendingCount hp
  rw [mod_of_lt_two_mul (by omega)]
  split <;> omega

/-- It is none of the pending ones (42_ring_buffer.md R162). -/
theorem pending_slot_ne {j : Nat} (hj : j < pendingCount s) :
    (s.rIdx.toNat + j) % s.n.toNat ≠ s.wIdx.toNat := by
  obtain ⟨hw, hr⟩ := h.indices hp
  have hlt := h.pendingCount_lt hp
  have hk := h.rIdx_add_pendingCount hp
  rw [mod_of_lt_two_mul (by omega)]
  split <;> omega

/-- A push moves the count from k to (k + 1) mod N (42_ring_buffer.md R162). -/
theorem pendingCount_push : pendingCount (Machine.push s) = (pendingCount s + 1) % s.n.toNat := by
  obtain ⟨hw, hr⟩ := h.indices hp
  have hlt := h.pendingCount_lt hp
  have hk := h.rIdx_add_pendingCount hp
  have hlt' := (h.push hp).pendingCount_lt hp
  have hk' := (h.push hp).rIdx_add_pendingCount hp
  rw [push_wIdx, push_rIdx, push_n, nextIndex_toNat (by omega), mod_of_lt_two_mul (by omega)] at hk'
  rw [push_n] at hlt'
  rw [mod_of_lt_two_mul (by omega)]
  split at hk' <;> split <;> omega

/-- READ of a pending frame takes one off the count (42_ring_buffer.md R164). -/
theorem pendingCount_advance (hne : s.rIdx ≠ s.wIdx) :
    pendingCount (s.setReadIndex (nextIndex s.n s.rIdx)) = pendingCount s - 1 := by
  obtain ⟨hw, hr⟩ := h.indices hp
  have hpos := mt (h.pendingCount_eq_zero_iff hp).mp hne
  have hlt := h.pendingCount_lt hp
  have hk := h.rIdx_add_pendingCount hp
  have hlt' := (h.advanceReadIndex hp).pendingCount_lt hp
  have hk' := (h.advanceReadIndex hp).rIdx_add_pendingCount hp
  rw [State.setReadIndex_wIdx, State.setReadIndex_rIdx, State.setReadIndex_n, nextIndex_toNat (by omega),
    mod_of_lt_two_mul (by omega)] at hk'
  rw [State.setReadIndex_n] at hlt'
  split at hk' <;> omega

/-! ## Slots in the arena (20_memory.md R50) -/

/-- The C bytes of every slot below N lie in the arena (10_state.md R40). -/
theorem slot_fits {j : Nat} (hj : j < s.n.toNat) : j * s.c.toNat + s.c.toNat ≤ k.arenaBytes :=
  calc j * s.c.toNat + s.c.toNat = (j + 1) * s.c.toNat := (Nat.succ_mul _ _).symm
    _ ≤ s.n.toNat * s.c.toNat := Nat.mul_le_mul_right _ hj
    _ ≤ k.arenaBytes := h.fits hp

/-- What a drain stores fits a slot (43_frame_codec.md R185, R186). -/
theorem storedFrame_length_le {stored : List Byte} (hs : storedFrame s stored) : stored.length ≤ s.c.toNat := by
  have hc := h.slot hp
  unfold storedFrame at hs
  split at hs
  · rename_i hv
    obtain ⟨payload, hl, -, rfl⟩ := hs
    rw [hv, Bool.toNat_true] at hc
    rw [List.length_cons]
    omega
  · omega

end CoreInv

/-- A write inside one slot leaves the bytes of every other slot alone (20_memory.md R50, R51). -/
theorem Memory.read?_writeAll_other_slot {m : Memory} {c i j x : Nat} {stored : List Byte} (hl : stored.length ≤ c)
    (hx : x < c) (hne : j ≠ i) :
    Memory.read? (Memory.writeAll m (i * c) stored) (j * c + x) = Memory.read? m (j * c + x) := by
  refine Memory.read?_writeAll_outside ?_
  obtain hlt | hgt := Nat.lt_or_gt_of_ne hne
  · have := Nat.mul_le_mul_right c (Nat.succ_le_of_lt hlt)
    rw [Nat.succ_mul] at this
    omega
  · have := Nat.mul_le_mul_right c (Nat.succ_le_of_lt hgt)
    rw [Nat.succ_mul] at this
    omega

/-! ## Which commands write the arena (20_memory.md R51) -/

@[simp] theorem allocated_arena (pReq : Byte) : (allocated pReq s).arena = s.arena := rfl

/-- Of all the ways a command ends the drain alone writes the arena: a frame, into slot w_idx
(43_frame_codec.md R184). -/
theorem Effect.arena_cases (he : Effect i s t) : t.arena = s.arena ∨
    (i = .poll ∧ s.phase = .ready ∧
      ∃ stored, storedFrame s stored ∧ t.arena = Memory.writeAll s.arena (slotBase s.wIdx s) stored) := by
  cases he with
  | pollDrain _ _ _ _ _ stored hp _ _ _ hs => exact .inr ⟨rfl, hp, stored, hs, rfl⟩
  | _ => exact .inl (by simp)

/-- Settles O53: what the drain writes fits slot w_idx. -/
theorem onlyTheDrainWritesTheArena : Obligations.OnlyTheDrainWritesTheArena := by
  intro i s t h hx
  obtain ha | ⟨rfl, hp, stored, hs, ha⟩ := (exec_effect hx).arena_cases
  · exact ⟨fun _ => ha, fun a _ => by rw [ha]⟩
  · refine ⟨fun hne => absurd rfl hne, fun a ho => ?_⟩
    have hl := h.storedFrame_length_le hp hs
    rw [Nat.succ_mul] at ho
    rw [ha, slotBase]
    exact Memory.read?_writeAll_outside (by omega)

/-- The canonical form of the arena is kept by every command. -/
theorem Effect.arena_wf (he : Effect i s t) (h : Memory.wf s.arena = true) : Memory.wf t.arena = true := by
  obtain ha | ⟨-, -, stored, -, ha⟩ := he.arena_cases
  · rwa [ha]
  · rw [ha]
    exact Memory.wf_writeAll h

/-- Settles O48: a reset leaves an arena that lists nothing, and a command writes it by `MemWrite`. -/
theorem stepKeepsTheArenaCanonical : Obligations.StepKeepsTheArenaCanonical := by
  intro s t h hs
  obtain rfl | ⟨_, rest, cursor, -, ⟨-, rfl⟩ | ⟨-, -, ⟨_, _, -, -, -, rfl⟩ | ⟨_, -, ⟨_, -, -, hx⟩ | ⟨_, -, rfl⟩⟩⟩⟩ :=
    step_cases hs
  · exact h
  · exact Memory.wf_reset
  · exact Memory.wf_reset
  · exact (exec_effect hx).arena_wf (s := s.withPort rest cursor) h
  · exact h

/-! ## The pending count over POLL and READ -/

/-- Settles O43: the reset state is the one a reset leads to. -/
theorem resetMeetsTheRegisterInvariants : Obligations.ResetMeetsTheRegisterInvariants :=
  CoreInv.applyReset Config.params State.reset

/-- The count depends on the indices and N alone. -/
theorem pendingCount_congr (hn : t.n = s.n := by simp) (hw : t.wIdx = s.wIdx := by simp)
    (hr : t.rIdx = s.rIdx := by simp) : pendingCount t = pendingCount s := by
  rw [pendingCount, hn, hw, hr, pendingCount]

/-- Settles O40: POLL pushes exactly where it drains. -/
theorem pushMovesThePendingCount : Obligations.PushMovesThePendingCount := by
  intro s t h hp hb hx htb
  refine ⟨fun hr ha => ?_, fun hno => ?_, fun j hj => h.pending_slot_ne hp hj⟩
  · obtain ⟨hp', -⟩ | ⟨-, ⟨_, rfl⟩ | ⟨hc, -⟩ | ⟨-, -, _, _, _, _, -, ⟨_, -, rfl⟩ | ⟨_, rfl⟩⟩ | ⟨hr', -⟩⟩ :=
      execPoll_cases hx
    · exact absurd hp hp'
    · simp at htb
    · rw [← nextAutomode_eq, hr, ha] at hc
      simp at hc
    · exact (pendingCount_congr (s := push s)).trans (h.pendingCount_push hp)
    · simp at htb
    · rw [hr] at hr'
      cases hr'
  · obtain ⟨hp', -⟩ | ⟨-, ⟨_, rfl⟩ | ⟨-, rfl⟩ | ⟨hr, ha, -⟩ | ⟨-, -, rfl | ⟨_, _, _, _, -, rfl⟩⟩⟩ := execPoll_cases hx
    · exact absurd hp hp'
    · exact pendingCount_congr
    · exact pendingCount_congr
    · exact absurd ⟨hr, ha⟩ hno
    · exact pendingCount_congr
    · exact pendingCount_congr

/-- Settles O41: READ advances r_idx exactly where the indices differ. -/
theorem readTakesOnePendingFrame : Obligations.ReadTakesOnePendingFrame := by
  intro s t h hp hx
  refine ⟨h.pendingCount_lt hp, ?_, h.pendingCount_eq_zero_iff hp⟩
  obtain ⟨hr, rfl⟩ | ⟨hr, _, -, rfl⟩ := execRead_cases hx
  · rw [pendingCount_congr (s := s), pendingCount_of_indices_eq hr]
  · exact (pendingCount_congr (s := s.setReadIndex _)).trans (h.pendingCount_advance hp hr)

/-- POLL writes no register of the ring but w_idx (42_ring_buffer.md R161). -/
theorem exec_poll_ring (hx : exec .poll s = .next t) : t.phase = s.phase ∧ t.n = s.n ∧ t.rIdx = s.rIdx := by
  obtain ⟨-, rfl⟩ | ⟨-, ⟨_, rfl⟩ | ⟨-, rfl⟩ | ⟨-, -, _, _, _, _, -, ⟨_, -, rfl⟩ | ⟨_, rfl⟩⟩ |
    ⟨-, -, rfl | ⟨_, _, _, _, -, rfl⟩⟩⟩ := execPoll_cases hx <;> simp

/-- With one slot both indices are 0 in READY, so they are equal (42_ring_buffer.md R165). -/
theorem CoreInv.indices_eq_of_one_slot (h : CoreInv k s) (hp : s.phase = .ready) (hn : s.n = 1#8) :
    s.wIdx = s.rIdx := by
  obtain ⟨hw, hr⟩ := h.indices hp
  rw [hn] at hw hr
  exact BitVec.eq_of_toNat_eq ((Nat.lt_one_iff.mp hw).trans (Nat.lt_one_iff.mp hr).symm)

/-- Settles O42: the indices are equal before each of the three commands, and after POLL, which keeps the invariants. -/
theorem oneSlotNeverShowsAFrame : Obligations.OneSlotNeverShowsAFrame := by
  intro s h hp hn
  have hr := (h.indices_eq_of_one_slot hp hn).symm
  refine ⟨fun hc => ?_, (readAnswersTheNextFrame s).1 hr, fun t hx => ?_⟩
  · have ha := availableComparesTheIndices s hc
    rwa [if_neg (not_not.mpr hr)] at ha
  · obtain ⟨hp', hn', -⟩ := exec_poll_ring hx
    exact (h.of_effect (exec_effect hx)).indices_eq_of_one_slot (hp'.trans hp) (hn'.trans hn)

end Sys2Proof.Machine
end

section
/-! SUPPORT. Pending slots hold frames (20_memory.md R52): what READ finds in a filled slot, how the drain fills slot
w_idx and no pending one, and that no access of the arena fails under the invariants (20_memory.md R50, R66). -/

namespace Sys2Proof.Machine

open Sys2Proof.Claims

variable {i : Instr} {k : Params} {s t : State} {m : Memory}

/-! ## Filled slots -/

/-- Where every address is written there is a list of the bytes. -/
theorem written.exists_bytes {a len : Nat} (h : written m a len) : ∃ data : List Byte, data.length = len ∧
    ∀ j (hj : j < data.length), Memory.read? m (a + j) = some data[j] := by
  refine ⟨List.ofFn fun j : Fin len => (Memory.read? m (a + j)).get (h j j.isLt), List.length_ofFn, fun j hj => ?_⟩
  rw [List.getElem_ofFn, Option.some_get]

/-- What `MemWrite` has written is written (20_memory.md R51). -/
theorem written_writeAll {a : Nat} {bs : List Byte} : written (Memory.writeAll m a bs) a bs.length := by
  intro j hj
  rw [Memory.read?_writeAll_inside hj, Option.isSome_some]

/-- A slot stays filled where the layout and the bytes of the slot stay what they are (43_frame_codec.md R185, R186). -/
theorem slotFilled.congr {i : Nat} (h : slotFilled s i) (hlen : s.pc.toNat + s.vl.toNat ≤ s.c.toNat)
    (hvl : t.vl = s.vl) (hpc : t.pc = s.pc) (hc : t.c = s.c)
    (hbytes : ∀ x < s.c.toNat, Memory.read? t.arena (i * s.c.toNat + x) = Memory.read? s.arena (i * s.c.toNat + x)) :
    slotFilled t i := by
  unfold slotFilled at h ⊢
  rw [hvl, hpc, hc]
  cases hv : s.vl with
  | true =>
    rw [hv] at h hlen
    obtain ⟨len, hr, hl, hw⟩ := h
    rw [Bool.toNat_true] at hlen
    refine ⟨len, by rw [← hr]; exact hbytes 0 (by omega), hl, fun j hj => ?_⟩
    rw [Nat.add_assoc, hbytes (1 + j) (by omega), ← Nat.add_assoc]
    exact hw j hj
  | false =>
    rw [hv] at h hlen
    intro j hj
    rw [hbytes j (by omega)]
    exact h j hj

/-- The slot a frame of the layout has been written to is filled (43_frame_codec.md R185, R186). -/
theorem slotFilled_of_stored {i : Nat} {stored : List Byte} (hs : storedFrame s stored)
    (hslot : s.c.toNat = s.pc.toNat + s.vl.toNat) (hvl : t.vl = s.vl) (hpc : t.pc = s.pc) (hc : t.c = s.c)
    (ha : t.arena = Memory.writeAll s.arena (i * s.c.toNat) stored) : slotFilled t i := by
  unfold slotFilled
  rw [hvl, hpc, hc, ha]
  unfold storedFrame at hs
  cases hv : s.vl with
  | true =>
    rw [hv] at hs hslot
    obtain ⟨payload, hl, hb, rfl⟩ := hs
    rw [Bool.toNat_true] at hslot
    refine ⟨lengthByte payload.length, ?_, ?_, ?_⟩
    · exact Memory.read?_writeAll_inside (j := 0) (bs := lengthByte payload.length :: payload) (Nat.succ_pos _)
    · rw [lengthByte_toNat hb]
      omega
    · rw [lengthByte_toNat hb, Memory.writeAll]
      exact written_writeAll
  | false =>
    rw [hv] at hs
    have hs : stored.length = s.pc.toNat := hs
    rw [← hs]
    exact written_writeAll

/-! ## The pending slots over a step -/

namespace SlotsFilled

/-- With equal indices no slot is pending. -/
theorem of_indices_eq (h : s.rIdx = s.wIdx) : SlotsFilled s := by
  intro j hj
  rw [pendingCount_of_indices_eq h] at hj
  exact absurd hj (Nat.not_lt_zero j)

/-- Which slots are pending and filled depends on the ring's registers and the arena alone. -/
theorem congr (h : SlotsFilled s) (hvl : t.vl = s.vl := by simp) (hpc : t.pc = s.pc := by simp)
    (hc : t.c = s.c := by simp) (hn : t.n = s.n := by simp) (hw : t.wIdx = s.wIdx := by simp)
    (hr : t.rIdx = s.rIdx := by simp) (ha : t.arena = s.arena := by simp) : SlotsFilled t := by
  intro j hj
  rw [pendingCount_congr hn hw hr] at hj
  rw [slotFilled, hvl, hpc, hc, hn, hr, ha]
  exact h j hj

/-- READ of a pending frame takes the first pending slot away (42_ring_buffer.md R166). -/
theorem advanceReadIndex (h : SlotsFilled s) (hi : CoreInv k s) (hp : s.phase = .ready) (hne : s.rIdx ≠ s.wIdx) :
    SlotsFilled (s.setReadIndex (nextIndex s.n s.rIdx)) := by
  intro j hj
  rw [hi.pendingCount_advance hp hne] at hj
  rw [State.setReadIndex_rIdx, State.setReadIndex_n, nextIndex_toNat (hi.slotCount hp).1, Nat.mod_add_mod,
    Nat.add_assoc, Nat.add_comm 1 j]
  exact h (j + 1) (by omega)

/-- A drain into slot w_idx and the push make that slot the last pending one, unless the ring was full, and leave the
other pending slots alone (42_ring_buffer.md R162, 43_frame_codec.md R184). -/
theorem push (h : SlotsFilled s) (hi : CoreInv k s) (hp : s.phase = .ready) {stored : List Byte}
    (hs : storedFrame s stored) :
    SlotsFilled (push (s.setArena (Memory.writeAll s.arena (slotBase s.wIdx s) stored))) := by
  have hslot := hi.slot hp
  have hpos := (hi.slotCount hp).1
  intro j hj
  have hcount := (hi.setArena (Memory.writeAll s.arena (slotBase s.wIdx s) stored)).pendingCount_push hp
  have hj : j < (pendingCount s + 1) % s.n.toNat := hcount ▸ hj
  have hle := Nat.mod_le (pendingCount s + 1) s.n.toNat
  show slotFilled _ ((s.rIdx.toNat + j) % s.n.toNat)
  obtain hold | hnew : j < pendingCount s ∨ j = pendingCount s := by omega
  · exact (h j hold).congr hslot.ge rfl rfl rfl fun x hx => Memory.read?_writeAll_other_slot
      (hi.storedFrame_length_le hp hs) hx (hi.pending_slot_ne hp hold)
  · rw [hnew, hi.slot_after_pending hp]
    exact slotFilled_of_stored hs hslot rfl rfl rfl rfl

/-- Each way a command ends keeps the pending slots filled. -/
theorem of_effect (h : SlotsFilled s) (hi : CoreInv Config.params s) (he : Effect i s t) : SlotsFilled t := by
  have hidle : s.phase ≠ .ready → s.rIdx = s.wIdx := fun hp => by
    obtain ⟨hw, hr⟩ := hi.idle hp
    rw [hw, hr]
  cases he with
  | frame _ _ _ hp | frameBlock _ _ _ _ hp | slots _ _ hp =>
    exact of_indices_eq (hidle (by simp [hp]))
  | payload | payloadBlock => exact of_indices_eq rfl
  | readFrame _ _ hr => exact (h.advanceReadIndex hi (hi.ready_of_pending hr) hr).congr
  | pollDrain _ _ _ _ _ _ hp _ _ _ hs => exact (h.push hi hp hs).congr
  | _ => exact h.congr

end SlotsFilled

/-- Settles O45: a reset leaves no frame pending, and each way a command ends keeps the pending slots filled. -/
theorem stepKeepsPendingSlotsFilled : Obligations.StepKeepsPendingSlotsFilled := by
  intro s t hi h hs
  obtain rfl | ⟨_, rest, cursor, -, ⟨-, rfl⟩ | ⟨-, -, ⟨_, _, -, -, -, rfl⟩ | ⟨_, -, ⟨_, -, -, hx⟩ | ⟨_, -, rfl⟩⟩⟩⟩ :=
    step_cases hs
  · exact h
  · exact SlotsFilled.of_indices_eq rfl
  · exact SlotsFilled.of_indices_eq rfl
  · exact SlotsFilled.of_effect h.congr (hi.withPort rest cursor) (exec_effect hx)
  · exact h.congr

/-! ## READ -/

/-- READ of a filled slot that lies in the arena answers at most PC bytes and changes nothing
(42_ring_buffer.md R166, R168). -/
theorem readSlot_of_filled (hf : slotFilled s s.rIdx.toNat) (hslot : s.c.toNat = s.pc.toNat + s.vl.toNat)
    (hfit : slotBase s.rIdx s + s.c.toNat ≤ k.arenaBytes) :
    ∃ data : List Byte, data.length ≤ s.pc.toNat ∧ readSlot k s = .done (lengthByte data.length :: data) s := by
  unfold slotFilled at hf
  cases hv : s.vl with
  | true =>
    rw [hv] at hf hslot
    obtain ⟨len, hr, hl, hw⟩ := hf
    obtain ⟨data, hd, hb⟩ := hw.exists_bytes
    rw [Bool.toNat_true] at hslot
    have hmin : data.length = readLength len s := hd.trans (Nat.min_eq_left hl).symm
    exact ⟨data, by omega, readSlot_variable hv hr hmin (by omega) hb⟩
  | false =>
    rw [hv] at hf hslot
    rw [Bool.toNat_false] at hslot
    obtain ⟨data, hd, hb⟩ := written.exists_bytes hf
    exact ⟨data, hd.le, readSlot_fixed hv hd (by omega) hb⟩

/-- Under the invariants the slot of a pending frame is read to its end (20_memory.md R52). -/
theorem readSlot_of_invariants (hi : CoreInv k s) (h : SlotsFilled s) (hr : s.rIdx ≠ s.wIdx) :
    ∃ data : List Byte, data.length ≤ s.pc.toNat ∧ readSlot k s = .done (lengthByte data.length :: data) s := by
  have hp := hi.ready_of_pending hr
  obtain ⟨-, hlt⟩ := hi.indices hp
  have hpos : 0 < pendingCount s := Nat.pos_of_ne_zero (mt (hi.pendingCount_eq_zero_iff hp).mp hr)
  have hfirst := h 0 hpos
  rw [Nat.add_zero, Nat.mod_eq_of_lt hlt] at hfirst
  exact readSlot_of_filled hfirst (hi.slot hp) (hi.slot_fits hp hlt)

/-- Settles O46: READ answers empty, or the frame of a pending slot, which is filled. -/
theorem readAlwaysAnswers : Obligations.ReadAlwaysAnswers := by
  intro s hi h
  by_cases hr : s.rIdx = s.wIdx
  · exact ⟨_, [], exec_read_empty hr, rfl, Nat.zero_le _, rfl⟩
  · obtain ⟨data, hl, hs⟩ := readSlot_of_invariants hi h hr
    exact ⟨_, data, exec_read_pending hr hs, rfl, hl.trans (hi.pc_le (hi.ready_of_pending hr)), rfl⟩

end Sys2Proof.Machine
end

section
/-! SUPPORT. The model's own faults (20_memory.md R52, R66): only READ and the drain can meet one, and neither does
under the invariants. -/

namespace Sys2Proof.Machine

open Sys2Proof.Claims

variable {i : Instr} {k : Params} {s : State} {f : Fault}

/-! ## Operations that never stop the model -/

theorem Run.andThen_eq_faulted {α β : Type} {r : Run α} {g : α → State → Run β} {e : Fault} :
    r.andThen g = .faulted e ↔ r = .faulted e ∨ ∃ a s, r = .done a s ∧ g a s = .faulted e := by
  cases r <;> simp [Run.andThen]

theorem finish_eq_fault {r : Run (List Byte)} : finish r = .fault f ↔ r = .faulted f := by
  cases r <;> simp

theorem abandon_eq_fault {shown : List (List Byte)} {o : Host.Outcome State Fault Refusal} :
    abandon shown o = .fault f ↔ o = .fault f := by
  cases o <;> simp [abandon]

/-- A run whose first part never stops the model, and whose next steps do not, does not. -/
theorem Run.andThen_ne_faulted {α β : Type} {r : Run α} {g : α → State → Run β} {e : Fault} (hr : r ≠ .faulted e)
    (hg : ∀ a s, r = .done a s → g a s ≠ .faulted e) : r.andThen g ≠ .faulted e := by
  rw [ne_eq, Run.andThen_eq_faulted, not_or]
  exact ⟨hr, fun ⟨a, s, hd, hf⟩ => hg a s hd hf⟩

theorem issueAll_ne_faulted (ops : List Transaction) (s : State) : issueAll ops s ≠ .faulted f := by
  obtain h | ⟨_, _, _, _, -, h⟩ := issueAll_cases ops s <;> simp [h]

theorem issueForByte_ne_faulted (op : Transaction) (s : State) : issueForByte op s ≠ .faulted f := by
  obtain h | ⟨_, h⟩ := issueForByte_cases op s <;> simp [h]

/-- Where a one-byte read completes its byte is the next draw. -/
theorem issueForByte_eq_done {op : Transaction} {b : Byte} {t : State} (h : issueForByte op s = .done b t) :
    b = s.nextDraw ∧ t = (s.completed op).dropDraw := by
  obtain h' | ⟨_, h'⟩ := issueForByte_cases op s
  · obtain ⟨rfl, rfl⟩ := Run.done.inj (h'.symm.trans h)
    exact ⟨rfl, rfl⟩
  · cases h'.symm.trans h

theorem configureChip_ne_fault (op : Transaction) (s : State) : configureChip op s ≠ .fault f := by
  obtain h | ⟨_, -, h⟩ := issue_cases op s <;> simp [configureChip, h]

theorem rearm_ne_faulted (s : State) : rearm s ≠ .faulted f := by
  obtain h | ⟨_, _, _, _, -, h⟩ := armRx_cases s <;> simp [rearm, h]

theorem sendCommon_ne_fault (vv : Bool) (address : Option Byte) (payload : List Byte) (lengthOk : Bool)
    (word : CommandWord) (s : State) : sendCommon vv address payload lengthOk word s ≠ .fault f := by
  unfold sendCommon
  split
  · simp [raiseFault]
  · split
    · simp [raiseFault]
    · split
      · simp [raiseFault]
      · obtain h | ⟨_, _, _, _, -, h⟩ | ⟨_, h⟩ := armTx_cases (encodeFrame vv address payload) s <;> simp [h]

/-! ## The drain -/

/-- A fixed-length drain stays inside an arena that holds PC bytes from its base on. -/
theorem drainFixed_ne_faulted {base : Nat} (hfit : base + s.pc.toNat ≤ k.arenaBytes) :
    drainFixed k base s ≠ .faulted f := by
  unfold drainFixed
  obtain h | ⟨_, h⟩ := readFifo_cases s.pc.toNat s
  · rw [h, Run.andThen_done, memWrite_done (by simpa using hfit)]
    simp
  · simp [h]

/-- A variable-length drain stays inside an arena that holds the length byte and C - 1 bytes from its base on. -/
theorem drainVariable_ne_faulted {base : Nat} (hfit : base + 1 + (s.c.toNat - 1) ≤ k.arenaBytes) :
    drainVariable k base s ≠ .faulted f := by
  refine Run.andThen_ne_faulted (issueForByte_ne_faulted _ _) fun raw s1 h1 => ?_
  obtain ⟨-, rfl⟩ := issueForByte_eq_done h1
  have hlen : drainLength raw (s.completed (.fifoRead 1)).dropDraw ≤ s.c.toNat - 1 := by simp [drainLength]
  generalize drainLength raw (s.completed (.fifoRead 1)).dropDraw = len at hlen ⊢
  obtain h | ⟨_, h⟩ := readFifo_cases len (s.completed (.fifoRead 1)).dropDraw
  · rw [h, Run.andThen_done, arenaWrite, if_pos (by omega), Run.andThen_done,
      memWrite_done (by rw [State.draws_length]; omega)]
    simp
  · simp [h]

/-- Under the invariants a drain stays inside its slot (10_state.md R40). -/
theorem drain_ne_faulted (hi : CoreInv k s) (hp : s.phase = .ready) : drain k s.wIdx s ≠ .faulted f := by
  have hslot := hi.slot hp
  have hfit : slotBase s.wIdx s + s.c.toNat ≤ k.arenaBytes := hi.slot_fits hp (hi.indices hp).1
  unfold drain
  split
  · rename_i hv
    rw [hv, Bool.toNat_true] at hslot
    exact drainVariable_ne_faulted (by omega)
  · exact drainFixed_ne_faulted (by omega)

/-- Under the invariants POLL's decision stops the model in none of its four cases (41_state_machine.md R140). -/
theorem pollDecision_ne_faulted (hi : CoreInv k s) (hp : s.phase = .ready) (flags1 : Byte) :
    pollDecision k flags1 s ≠ .faulted f := by
  unfold pollDecision
  split
  · exact Run.andThen_ne_faulted (drain_ne_faulted hi hp) fun _ _ _ => by simp
  · simp
  · exact rearm_ne_faulted s
  · simp

/-! ## Commands and steps -/

theorem exec_poll_ne_fault (hi : CoreInv Config.params s) : exec .poll s ≠ .fault f := by
  rw [exec_poll]
  split
  · simp
  · rename_i hp
    rw [not_not] at hp
    rw [ne_eq, finish_eq_fault]
    refine Run.andThen_ne_faulted (issueForByte_ne_faulted _ _) fun flags1 s1 h1 => ?_
    obtain ⟨-, rfl⟩ := issueForByte_eq_done h1
    exact pollDecision_ne_faulted (hi.completed _).dropDraw (by simpa using hp) flags1

/-- Under the invariants every command answers a next state. -/
theorem exec_ne_fault (hi : CoreInv Config.params s) (h : SlotsFilled s) : exec i s ≠ .fault f := by
  cases i with
  | cfgFrame vl ad =>
    rw [exec_cfgFrame]
    split
    · simp
    · exact configureChip_ne_fault _ _
  | cfgAes e =>
    rw [exec_cfgAes]
    split
    · simp
    · exact configureChip_ne_fault _ _
  | cfgSlots n =>
    rw [exec_cfgSlots]
    split
    · simp
    · split <;> simp
  | cfgPayload p =>
    rw [exec_cfgPayload]
    split
    · simp
    · split
      · simp
      · split
        · simp
        · exact configureChip_ne_fault _ _
  | setHighpower => simp [exec_setHighpower]
  | setPower d b =>
    rw [exec_setPower, ne_eq, finish_eq_fault]
    exact Run.andThen_ne_faulted (issueAll_ne_faulted _ _) fun _ _ _ => by simp
  | receive =>
    rw [exec_receive]
    split
    · simp
    · exact mt finish_eq_fault.mp (rearm_ne_faulted s)
  | poll => exact exec_poll_ne_fault hi
  | available => simp [exec_available]
  | read =>
    obtain ⟨t, _, hx, -⟩ := readAlwaysAnswers s hi h
    simp [hx]
  | canSend => simp [exec_canSend]
  | send p => exact sendCommon_ne_fault _ _ _ _ _ _
  | sendAddr a p => exact sendCommon_ne_fault _ _ _ _ _ _
  | sendVar p => exact sendCommon_ne_fault _ _ _ _ _ _
  | sendAddrVar a p => exact sendCommon_ne_fault _ _ _ _ _ _

/-- A step stops the model only where the command it runs does. -/
theorem exec_eq_fault_of_step (hs : step s = .fault f) :
    ∃ i rest cursor, exec i (s.withPort rest cursor) = .fault f := by
  cases hn : s.nextEvent with
  | none =>
    rw [step, offer, hn] at hs
    cases hs
  | some next =>
    obtain ⟨event, rest, cursor⟩ := next
    have hp : hostPresents s event rest cursor := nextEvent_eq_some.mp hn
    cases event with
    | reset => simp [step_of_reset hp] at hs
    | command bytes =>
      by_cases ha : acceptsCommands s
      · rw [step_of_command ha hp] at hs
        split at hs
        · exact ⟨_, rest, cursor, hs⟩
        all_goals cases hs
      · simp [step_of_command_waits ha hp] at hs
    | abandoned bytes =>
      by_cases ha : acceptsCommands s
      · rw [step_of_abandoned ha hp] at hs
        split at hs
        · exact ⟨_, rest, cursor, abandon_eq_fault.mp hs⟩
        all_goals cases hs
      · simp [step_of_abandoned_waits ha hp] at hs

/-- Settles O47: taking the event from the port keeps both invariants, and under them no command stops the model. -/
theorem noStepFaultsUnderTheInvariants : Obligations.NoStepFaultsUnderTheInvariants := by
  intro s f hi h hs
  obtain ⟨i, rest, cursor, hx⟩ := exec_eq_fault_of_step hs
  exact exec_ne_fault (hi.withPort rest cursor) h.congr hx

end Sys2Proof.Machine
end

section
/-! SUPPORT. Boost safety (70_reset_and_hazards.md R258 to R260): what each sequence of transactions does to
BOOST_IN_RX, and the boost invariant over one command and one step. -/

namespace Sys2Proof.Machine

open Sys2Proof.Claims

variable {i : Instr} {s t : State} {g : Ghost} {op : Transaction} {ops ops' : List Transaction}

/-! ## Safety along a sequence of transactions -/

@[simp] theorem Ghost.afterAll_nil (g : Ghost) : g.afterAll [] = g := rfl

@[simp] theorem Ghost.afterAll_cons (g : Ghost) (op : Transaction) (ops : List Transaction) :
    g.afterAll (op :: ops) = (g.after op).afterAll ops := rfl

@[simp] theorem boostSafeAlong_nil : boostSafeAlong g [] ↔ boostInRx g = false := by
  simp [boostSafeAlong]

@[simp] theorem boostSafeAlong_cons :
    boostSafeAlong g (op :: ops) ↔ boostInRx g = false ∧ boostSafeAlong (g.after op) ops := by
  refine ⟨fun h => ⟨h 0 (Nat.zero_le _), fun j hj => h (j + 1) (Nat.succ_le_succ hj)⟩, fun ⟨h, hs⟩ j hj => ?_⟩
  cases j with
  | zero => exact h
  | succ j => exact hs j (Nat.le_of_succ_le_succ hj)

theorem boostOn_eq_true : boostOn g = true ↔ g.boost1 = .on ∨ g.boost2 = .on := by
  simp [boostOn]

theorem boostOn_eq_false : boostOn g = false ↔ g.boost1 ≠ .on ∧ g.boost2 ≠ .on := by
  simp [boostOn]

theorem boostInRx_eq_false : boostInRx g = false ↔ (boostOn g = true → g.opMode ≠ .receiver) := by
  simp [boostInRx]

/-- A command that stalls has completed a beginning of its transactions, which is safe where they all are. -/
theorem boostSafeAlong.of_append (h : boostSafeAlong g (ops ++ ops')) : boostSafeAlong g ops := by
  intro j hj
  have := h j (hj.trans (by simp))
  rwa [List.take_append_of_le_length hj] at this

theorem boostSafeAlong.last (h : boostSafeAlong g ops) : boostInRx (g.afterAll ops) = false := by
  have := h ops.length le_rfl
  rwa [List.take_length] at this

/-- Transactions that write neither a boost register nor the operating mode (20_memory.md R54). -/
def keepsBoost (ops : List Transaction) : Prop :=
  ∀ op ∈ ops, ∀ g : Ghost, boostOn (g.after op) = boostOn g ∧ (g.after op).opMode = g.opMode

theorem readsOnly.keepsBoost (h : readsOnly ops) : keepsBoost ops := fun op hop g => by
  rw [h op hop g]
  exact ⟨rfl, rfl⟩

theorem keepsBoost_powerTransactions (m : PowerSetting) : keepsBoost (powerTransactions m) := by
  unfold powerTransactions
  split
  · exact List.forall_mem_cons.mpr ⟨fun _ => ⟨rfl, rfl⟩, List.forall_mem_singleton.mpr fun _ => ⟨rfl, rfl⟩⟩
  · exact List.forall_mem_singleton.mpr fun _ => ⟨rfl, rfl⟩

theorem keepsBoost.boostOn_afterAll (h : keepsBoost ops) (g : Ghost) : boostOn (g.afterAll ops) = boostOn g := by
  induction ops generalizing g with
  | nil => rfl
  | cons op ops ih =>
    obtain ⟨hop, hops⟩ := List.forall_mem_cons.mp h
    rw [Ghost.afterAll_cons, ih hops, (hop g).1]

/-- Such transactions keep BOOST_IN_RX what it is. -/
theorem keepsBoost.boostSafeAlong (h : keepsBoost ops) (hg : boostInRx g = false) : boostSafeAlong g ops := by
  induction ops generalizing g with
  | nil => exact boostSafeAlong_nil.mpr hg
  | cons op ops ih =>
    obtain ⟨hop, hops⟩ := List.forall_mem_cons.mp h
    have hkeep : boostInRx (g.after op) = boostInRx g := by rw [boostInRx, (hop g).1, (hop g).2, boostInRx]
    exact boostSafeAlong_cons.mpr ⟨hg, ih hops (hkeep.trans hg)⟩

/-- `ARM_RX` switches boost off before it enters Receiver, if BOOST is 1; it is safe if boost is off where BOOST is 0
(41_state_machine.md R131). -/
theorem boostSafeAlong_armRx {boost : Bool} (hg : boostInRx g = false) (hb : boostOn g = true → boost = true) :
    boostSafeAlong g (armRxTransactions boost) ∧ boostOn (g.afterAll (armRxTransactions boost)) = false := by
  simp only [boostInRx_eq_false, boostOn_eq_true] at hg hb
  cases boost with
  | true =>
    simp only [armRxTransactions_eq, armRxOps, rxMode, if_true, boostSafeAlong_cons, boostSafeAlong_nil,
      Ghost.afterAll_cons, Ghost.afterAll_nil, Ghost.after, ghostBoost, ghostMode, boostInRx_eq_false, boostOn_eq_true,
      boostOn_eq_false]
    grind
  | false =>
    simp only [armRxTransactions_eq, armRxOps, rxMode, Bool.false_eq_true, if_false, boostSafeAlong_cons,
      boostSafeAlong_nil, Ghost.afterAll_cons, Ghost.afterAll_nil, Ghost.after, ghostMode, boostInRx_eq_false,
      boostOn_eq_true, boostOn_eq_false]
    grind

/-- `ARM_TX` leaves Receiver before it switches boost on, and switches it on only if BOOST is 1
(41_state_machine.md R134). -/
theorem boostSafeAlong_armTx {boost : Bool} (frame : List Byte) (hg : boostInRx g = false)
    (hb : boostOn g = true → boost = true) :
    boostSafeAlong g (armTxTransactions boost ++ [.fifoWrite frame]) ∧
      (boostOn (g.afterAll (armTxTransactions boost ++ [.fifoWrite frame])) = true → boost = true) := by
  simp only [boostInRx_eq_false, boostOn_eq_true] at hg hb
  cases boost with
  | true =>
    simp only [armTxTransactions_append_fifoWrite, armTxOps, txMode, if_true, boostSafeAlong_cons,
      boostSafeAlong_nil, Ghost.afterAll_cons, Ghost.afterAll_nil, Ghost.after, ghostMode, boostInRx_eq_false,
      boostOn_eq_true]
    grind
  | false =>
    simp only [armTxTransactions_append_fifoWrite, armTxOps, txMode, Bool.false_eq_true, if_false, boostSafeAlong_cons,
      boostSafeAlong_nil, Ghost.afterAll_cons, Ghost.afterAll_nil, Ghost.after, ghostMode, boostInRx_eq_false,
      boostOn_eq_true]
    grind

/-! ## Commands and steps -/

@[simp] theorem allocated_boost (pReq : Byte) : (allocated pReq s).boost = s.boost := rfl

/-- The boost invariant after a command, and that the transactions it has completed were safe. -/
def BoostSafe (s t : State) : Prop :=
  BoostInv t ∧ ∃ ops, Completed s t ops ∧ boostSafeAlong s.ghost ops

/-- A command is safe if its transactions are, and leaves boost on, unless it stalls, only in Sending with BOOST = 1. -/
theorem BoostSafe.of_completed (hc : Completed s t ops) (hs : boostSafeAlong s.ghost ops)
    (ho : t.blocked = none → boostOn (s.ghost.afterAll ops) = true → t.radio = .sending ∧ t.boost = true) :
    BoostSafe s t :=
  ⟨⟨by rw [hc.ghost]; exact hs.last, by rw [hc.ghost]; exact ho⟩, ops, hc, hs⟩

/-- Nothing more is asked of a command that stalls. -/
theorem BoostSafe.of_block {op : Transaction} {rest : List Nat} (hc : Completed s (t.block op rest) ops)
    (hs : boostSafeAlong s.ghost ops) : BoostSafe s (t.block op rest) :=
  .of_completed hc hs (by simp)

/-- Each way a command ends is safe, if a SET_POWER comes only in Receiving (70_reset_and_hazards.md R259, R260). -/
theorem BoostInv.of_effect (h : BoostInv s) (hb : s.blocked = none)
    (hduty : ∀ dbm b, i = .setPower dbm b → s.radio = .receiving) (he : Effect i s t) : BoostSafe s t := by
  have hon := h.onlySending hb
  have hboost : boostOn s.ghost = true → s.boost = true := fun hg => (hon hg).2
  obtain ⟨hrx, hrxOff⟩ := boostSafeAlong_armRx h.notInRx hboost
  have htx := fun frame => boostSafeAlong_armTx frame h.notInRx hboost
  have hkept : ∀ {t ops}, Completed s t ops → keepsBoost ops → t.radio = s.radio → t.boost = s.boost → BoostSafe s t :=
    fun hc hk hr hb => .of_completed hc (hk.boostSafeAlong h.notInRx) fun _ hg => by
      rw [hk.boostOn_afterAll] at hg
      rw [hr, hb]
      exact hon hg
  cases he with
  | frame vl ad => exact hkept (ops := [.cfgFrame vl ad]) {} (by simp [keepsBoost, Ghost.after]) rfl rfl
  | aes e => exact hkept (ops := [.cfgAes e]) {} (by simp [keepsBoost, Ghost.after]) rfl rfl
  | payload _ _ op _ _ _ hop =>
    exact hkept (ops := [op]) {} (by simp [hop, keepsBoost, Ghost.after]) rfl rfl
  | power dbm b =>
    have hkeep := keepsBoost_powerTransactions (powerMap (sext8 dbm) b s.hp)
    refine .of_completed {} (hkeep.boostSafeAlong h.notInRx) fun _ hg => ?_
    rw [hkeep.boostOn_afterAll] at hg
    cases (hduty dbm b rfl).symm.trans (hon hg).1
  | powerBlock dbm b _ before _ _ _ hops =>
    have hkeep := keepsBoost_powerTransactions (powerMap (sext8 dbm) b s.hp)
    exact .of_block {} (hops ▸ hkeep.boostSafeAlong h.notInRx).of_append
  | receive => exact .of_completed {} hrx (by simp [hrxOff])
  | receiveBlock _ _ _ _ _ _ hops => exact .of_block {} (hops ▸ hrx).of_append
  | send _ _ frame => exact .of_completed {} (htx frame).1 fun _ hg => ⟨by simp, by simpa using (htx frame).2 hg⟩
  | sendBlock _ _ before _ _ _ _ _ hops =>
    exact .of_block {} (hops ▸ (htx []).1.of_append).of_append
  | sendBlockWrite _ _ frame => exact .of_block {} (htx frame).1.of_append
  | pollIdle => exact hkept (ops := [.flags1]) {} (by simp [keepsBoost]) (by simp) (by simp)
  | pollDrain _ ops _ _ _ _ _ _ _ hops | pollDrainBlock _ ops _ _ _ _ _ _ _ hops =>
    exact hkept { ghost := (Ghost.foldl_readsOnly hops s.ghost).symm } hops.keepsBoost (by simp) (by simp)
  | pollRearm =>
    exact .of_completed (ops := .flags1 :: armRxTransactions s.boost) {} (by simp [h.notInRx, hrx]) (by simp [hrxOff])
  | pollRearmBlock _ before _ _ _ _ _ _ hops =>
    have hsafe : boostSafeAlong s.ghost (.flags1 :: before) := by
      simpa [h.notInRx] using (hops ▸ hrx).of_append
    exact .of_block {} hsafe
  | _ => exact hkept (ops := []) {} (by simp [keepsBoost]) (by simp) (by simp)

/-- A reset meets the boost invariant: every ghost field is Unknown (70_reset_and_hazards.md R252). -/
theorem BoostInv.applyReset (s : State) : BoostInv s.applyReset :=
  ⟨rfl, fun _ hg => by cases hg⟩

/-- Settles O49: the reset state is the one a reset leads to. -/
theorem resetMeetsTheBoostInvariant : Obligations.ResetMeetsTheBoostInvariant :=
  BoostInv.applyReset State.reset

/-- The boost invariant does not depend on what the host presents. -/
theorem BoostInv.withPort (h : BoostInv s) (rest : List HostEvent) (cursor : Option Nat) :
    BoostInv (s.withPort rest cursor) :=
  ⟨h.notInRx, h.onlySending⟩

/-- Settles O50: a command is safe where it runs to its end, stalls, or is abandoned; a wait, a reset and an illegal
word issue no transaction. -/
theorem boostIsNeverOnInReceive : Obligations.BoostIsNeverOnInReceive := by
  intro s t h hduty hs
  have hnil : boostSafeAlong s.ghost [] := boostSafeAlong_nil.mpr h.notInRx
  obtain rfl | ⟨event, rest, cursor, hn, hevent⟩ := step_cases hs
  · exact ⟨h, [], by simp, hnil, fun _ => rfl⟩
  · have hp : hostPresents s event rest cursor := nextEvent_eq_some.mp hn
    have hsafe : ∀ {i u}, (offer s = .run i (s.withPort rest cursor) ∨ offer s = .abandon i (s.withPort rest cursor)) →
        s.blocked = none → exec i (s.withPort rest cursor) = .next u → BoostSafe (s.withPort rest cursor) u :=
      fun ho hb hx => (h.withPort rest cursor).of_effect hb
        (fun dbm b hi => hduty dbm b _ (hi ▸ ho)) (exec_effect hx)
    obtain ⟨hreset, rfl⟩ | ⟨-, hb, ⟨i, u, ⟨bytes, rfl⟩, ho, hx, rfl⟩ | ⟨bytes, rfl, ⟨i, -, ho, hx⟩ | ⟨w, -, rfl⟩⟩⟩ :=
      hevent
    · refine ⟨.applyReset _, [], by simp, hnil, fun hno => ?_⟩
      exact absurd ⟨event, rest, cursor, hp, hreset⟩ hno
    · obtain ⟨-, ops, hc, hops⟩ := hsafe (.inr ho) hb hx
      refine ⟨.applyReset _, ops, hc.trace, hops, fun hno => ?_⟩
      exact absurd ⟨_, rest, cursor, hp, fun _ he => by cases he⟩ hno
    · obtain ⟨hinv, ops, hc, hops⟩ := hsafe (.inl ho) hb hx
      exact ⟨hinv, ops, hc.trace, hops, fun _ => hc.ghost⟩
    · exact ⟨⟨h.notInRx, h.onlySending⟩, [], by simp, hnil, fun _ => rfl⟩

/-! ## Outside the host's duty (70_reset_and_hazards.md R260) -/

/-- Without the flag SET_POWER leaves BOOST = 0, in both classes (44_power.md R202). -/
theorem powerMap_boost_false (p : Int) (hp : HardwareClass) : (powerMap p false hp).boost = false := by
  cases hp <;> rfl

/-- With BOOST = 0 `ARM_RX` enters Receiver and leaves the boost registers as they are (41_state_machine.md R131). -/
theorem boostInRx_armRx_unboosted (g : Ghost) : boostInRx (g.afterAll (armRxTransactions false)) = boostOn g :=
  Bool.and_true _

/-- With BOOST = 0, a RECEIVE and a POLL in Sending that reads am = 0 leave BOOST_IN_RX as boost was, unless they
stall. -/
theorem boostInRx_after_rearm {u : State} (hp : t.phase = .ready) (hr : t.radio = .sending) (hb : t.boost = false)
    (hx : exec .receive t = .next u ∨ (nextAutomode t = false ∧ exec .poll t = .next u)) (hu : u.blocked = none) :
    boostInRx u.ghost = boostOn t.ghost := by
  obtain hx | ⟨ha, hx⟩ := hx
  · obtain ⟨hp', -⟩ | ⟨-, rfl | ⟨_, _, _, _, -, rfl⟩⟩ := execReceive_cases hx
    · exact absurd hp hp'
    · rw [hb, State.respond_ghost, State.setRadio_ghost, State.completedAll_ghost]
      exact boostInRx_armRx_unboosted _
    · simp at hu
  · rw [nextAutomode_eq] at ha
    obtain ⟨hp', -⟩ | ⟨-, ⟨_, rfl⟩ | ⟨hc, -⟩ | ⟨hr', -⟩ | ⟨-, -, rfl | ⟨_, _, _, _, -, rfl⟩⟩⟩ := execPoll_cases hx
    · exact absurd hp hp'
    · simp at hu
    · simp [hr, ha] at hc
    · simp [hr] at hr'
    · rw [hb, State.respond_ghost, State.setRadio_ghost, State.completedAll_ghost, State.dropDraw_ghost]
      exact boostInRx_armRx_unboosted _
    · simp at hu

/-- Settles O51: the SET_POWER clears BOOST and leaves the boost registers On, and then nothing switches them off. -/
theorem powerChangeWhileSendingBreaksBoostSafety : Obligations.PowerChangeWhileSendingBreaksBoostSafety := by
  intro dbm s t u hp hr hon hboost hb hx htb hu hub
  obtain rfl | ⟨_, _, _, _, -, rfl⟩ := execSetPower_cases hx
  · have hkeep := keepsBoost_powerTransactions (powerMap (sext8 dbm) false s.hp)
    refine (boostInRx_after_rearm (by simpa using hp) (by simpa using hr) (powerMap_boost_false _ _) hu hub).trans ?_
    rw [State.respond_ghost, State.setBoost_ghost, State.completedAll_ghost]
    exact (hkeep.boostOn_afterAll s.ghost).trans (boostOn_eq_true.mpr (.inl hon))
  · simp at htb

end Sys2Proof.Machine
end

section
/-! SUPPORT. The fault table of 60_exceptions.md R220 as what `exec` does: where the table gives a fault the command is
the fault entry, and where it gives none the command keeps FAULT (R221 to R223, R225). -/

namespace Sys2Proof.Machine

open Sys2Proof.Claims

variable {i : Instr} {s t : State} {code : FaultCode}

/-! ## The SEND family (41_state_machine.md R135) -/

section

variable {vv : Bool} {address : Option Byte} {payload : List Byte} {lengthOk : Bool} {word : CommandWord}

/-- `SEND_COMMON` raises what its rows of the table say. -/
theorem sendCommon_of_sendFault (h : sendFault vv address.isSome lengthOk s = some code) :
    sendCommon vv address payload lengthOk word s = raiseFault code word s := by
  unfold sendFault at h
  unfold sendCommon
  have hmode : (vv, address.isSome) ≠ (s.vl, s.ad) ↔ vv ≠ s.vl ∨ address.isSome ≠ s.ad := by
    rw [ne_eq, Prod.mk.injEq, not_and_or]
  split at h
  · rw [if_pos ‹_›, Option.some.inj h]
  · rw [if_neg ‹_›]
    split at h
    · rw [if_pos (hmode.mpr ‹_›), Option.some.inj h]
    · rw [if_neg (mt hmode.mp ‹_›)]
      split at h
      · cases h
      · rw [if_pos (Bool.eq_false_iff.mpr ‹_›), Option.some.inj h]

/-- Past its checks `SEND_COMMON` is ARM_TX with the variant's frame, and the empty response. -/
theorem sendCommon_past_checks (hp : s.phase = .ready) (hv : vv = s.vl) (ha : address.isSome = s.ad)
    (hl : lengthOk = true) : sendCommon vv address payload lengthOk word s =
      finish ((armTx (encodeFrame vv address payload) s).andThen fun _ s' => .done [] s') := by
  rw [sendCommon, if_neg (not_not.mpr hp), if_neg (by simp [hv, ha]), if_neg (by simp [hl])]

/-- Where the table gives no fault the checks have passed. -/
theorem checks_of_sendFault_none {va : Bool} (h : sendFault vv va lengthOk s = none) :
    s.phase = .ready ∧ vv = s.vl ∧ va = s.ad ∧ lengthOk = true := by
  unfold sendFault at h
  split at h
  · cases h
  · split at h
    · cases h
    · rename_i hp hm
      rw [not_or, not_not, not_not] at hm
      split at h
      · exact ⟨not_not.mp hp, hm.1, hm.2, ‹_›⟩
      · cases h

/-- With no fault in the table a SEND command keeps FAULT. -/
theorem sendCommon_keeps_fault (h : sendFault vv address.isSome lengthOk s = none)
    (hx : sendCommon vv address payload lengthOk word s = .next t) : t.fault = s.fault := by
  obtain ⟨hp, hv, ha, hl⟩ := checks_of_sendFault_none h
  rw [sendCommon_past_checks hp hv ha hl] at hx
  obtain h | ⟨_, _, _, _, -, h⟩ | ⟨_, h⟩ := armTx_cases (encodeFrame vv address payload) s <;> rw [h] at hx <;>
    obtain rfl := Host.Outcome.next.inj hx <;> simp

end

/-! ## All commands -/

/-- Where the table gives a fault the command raises it and does nothing else. -/
theorem exec_of_tableFault (h : tableFault i s = some code) : exec i s = .next (faulted code i s) := by
  cases i with
  | cfgFrame vl ad =>
    obtain ⟨hp, hc⟩ := Option.ite_none_right_eq_some.mp h
    rw [← Option.some.inj hc]
    exact (cfgFrameSetsTheFrameMode vl ad s).1 hp
  | cfgAes e =>
    obtain ⟨hp, hc⟩ := Option.ite_none_right_eq_some.mp h
    rw [← Option.some.inj hc]
    exact (cfgAesSetsAesAlone e s).1 hp
  | cfgSlots n =>
    rw [exec_cfgSlots]
    simp only [tableFault] at h
    split at h
    · rw [if_pos ‹_›, Option.some.inj h]
    · rw [if_neg ‹_›]
      obtain ⟨hn, hc⟩ := Option.ite_none_right_eq_some.mp h
      rw [if_pos hn, ← Option.some.inj hc]
  | cfgPayload p =>
    rw [exec_cfgPayload]
    simp only [tableFault] at h
    split at h
    · rw [if_pos ‹_›, Option.some.inj h]
    · rw [if_neg ‹_›]
      split at h
      · rw [if_pos ‹_›, Option.some.inj h]
      · rw [if_neg ‹_›]
        obtain ⟨hf, hc⟩ := Option.ite_none_right_eq_some.mp h
        rw [← Option.some.inj hc]
        exact if_pos hf
  | receive =>
    obtain ⟨hp, hc⟩ := Option.ite_none_right_eq_some.mp h
    rw [← Option.some.inj hc]
    exact (receiveArmsReception s).1 hp
  | poll =>
    obtain ⟨hp, hc⟩ := Option.ite_none_right_eq_some.mp h
    rw [← Option.some.inj hc]
    exact (exec_poll s).trans (if_pos hp)
  | send p => exact sendCommon_of_sendFault (address := none) h
  | sendAddr a p => exact sendCommon_of_sendFault (address := some a) h
  | sendVar p => exact sendCommon_of_sendFault (address := none) h
  | sendAddrVar a p => exact sendCommon_of_sendFault (address := some a) h
  | _ => cases h

/-- A command that may raise no fault, by its opcode and the phase, keeps FAULT. -/
theorem Effect.keeps_fault (he : Effect i s t) (h : ¬ mayRaise i s) : t.fault = s.fault := by
  cases he with
  | raised _ _ _ hr => exact absurd hr h
  | _ => simp

/-- Where the table gives no fault the command keeps FAULT. -/
theorem exec_keeps_fault (h : tableFault i s = none) (hx : exec i s = .next t) : t.fault = s.fault := by
  have hkeep := (exec_effect hx).keeps_fault
  cases i with
  | cfgFrame vl ad => exact hkeep (by simpa [tableFault, mayRaise] using h)
  | cfgAes e => exact hkeep (by simpa [tableFault, mayRaise] using h)
  | cfgSlots n =>
    simp only [tableFault] at h
    split at h
    · cases h
    · split at h
      · cases h
      · rw [exec_cfgSlots, if_neg ‹_›, if_neg ‹_›] at hx
        obtain rfl := Host.Outcome.next.inj hx
        rfl
  | cfgPayload p =>
    simp only [tableFault] at h
    split at h
    · cases h
    · split at h
      · cases h
      · split at h
        · cases h
        · rename_i hp hb hf
          rw [exec_cfgPayload, if_neg hp, if_neg hb, if_neg (by exact hf)] at hx
          obtain rfl | ⟨_, rfl⟩ := configureChip_cases hx <;> simp
  | receive => exact hkeep (by simpa [tableFault, mayRaise] using h)
  | poll => exact hkeep (by simpa [tableFault, mayRaise] using h)
  | send p => exact sendCommon_keeps_fault (address := none) h hx
  | sendAddr a p => exact sendCommon_keeps_fault (address := some a) h hx
  | sendVar p => exact sendCommon_keeps_fault (address := none) h hx
  | sendAddrVar a p => exact sendCommon_keeps_fault (address := some a) h hx
  | _ => exact hkeep id

/-- Settles O11: the table's fault is raised, and without one FAULT is kept. -/
theorem commandsFaultAsTheTableSays : Obligations.CommandsFaultAsTheTableSays := fun _ _ =>
  ⟨fun _ h => exec_of_tableFault h, fun h _ hx => exec_keeps_fault h hx⟩

/-- A CORE that has not faulted raises exactly the faults of the table. -/
theorem exec_eq_faulted_iff (hs : s.fault = none) :
    exec i s = .next (faulted code i s) ↔ tableFault i s = some code := by
  refine ⟨fun hx => ?_, exec_of_tableFault⟩
  cases ht : tableFault i s with
  | none =>
    have hkept : some (⟨code, encodeWord i⟩ : FaultEntry) = s.fault := exec_keeps_fault ht hx
    rw [hs] at hkept
    cases hkept
  | some code' =>
    have heq := congrArg State.fault (Host.Outcome.next.inj ((exec_of_tableFault ht).symm.trans hx))
    exact congrArg some (FaultEntry.mk.inj (Option.some.inj heq)).1

/-- Settles O13: the table reads registers alone. -/
theorem faultsDoNotDependOnTheChip : Obligations.FaultsDoNotDependOnTheChip := by
  intro i s chip drawn stalls cursor code hs
  rw [exec_eq_faulted_iff hs]
  exact (exec_eq_faulted_iff (s := { s with
    chipBytes := chip, drawn := drawn, stalls := stalls, stallCursor := cursor }) hs).symm

/-- Settles O31: the phase is POLL's one check. -/
theorem pollBeforeReadyFaults : Obligations.PollBeforeReadyFaults := fun s hp => (exec_poll s).trans (if_pos hp)

/-- CFG_PAYLOAD's checks over any parameters (40_configuration.md R116). -/
theorem execCfgPayloadWith_eq (k : Params) (pReq : Byte) (s : State) : execCfgPayloadWith k pReq s =
    if s.phase ≠ .sized then .next (faulted .configOrder (.cfgPayload pReq) s)
    else if 64 < pReq.toNat then .next (faulted .badOperand (.cfgPayload pReq) s)
    else if k.arenaBytes < s.n.toNat * slotSize (internalCapacity pReq.toNat s.ad s.vl) s.vl then
      .next (faulted .arenaOverflow (.cfgPayload pReq) s)
    else configureChip (.cfgLen (BitVec.ofNat 7 (internalCapacity pReq.toNat s.ad s.vl))) (allocated pReq s) := rfl

/-- Settles O20: the overflow check is the last one, and past it no fault is raised. -/
theorem arenaOverflowForEveryCapacity : Obligations.ArenaOverflowForEveryCapacity := by
  rintro k pReq s _ hp hb rfl
  refine ⟨?_, rfl⟩
  rw [execCfgPayloadWith_eq, if_neg (not_not.mpr hp), if_neg (Nat.not_lt.mpr hb)]
  by_cases hf : k.arenaBytes < s.n.toNat * slotSize (internalCapacity pReq.toNat s.ad s.vl) s.vl
  · exact iff_of_true (if_pos hf) hf
  · refine iff_of_false (fun hx => ?_) hf
    rw [if_neg (by exact hf)] at hx
    obtain h | ⟨_, h⟩ := configureChip_cases hx <;> cases congrArg State.fault h

/-! ## Stalls (20_memory.md R57) -/

/-- A command that stalls has not touched the arena: the drain writes it after its last transaction
(43_frame_codec.md R184). -/
theorem Effect.arena_of_stall (he : Effect i s t) (hs : s.blocked = none) (ht : t.blocked ≠ none) :
    t.arena = s.arena := by
  cases he with
  | pollDrain => exact absurd hs ht
  | _ => simp

/-- Settles O14: a command that stalls places no response, is not the fault entry, and has completed transactions. -/
theorem stalledCommandsPlaceNoResponse : Obligations.StalledCommandsPlaceNoResponse := by
  intro i s t hs hx ht
  have he := exec_effect hx
  refine ⟨?_, ?_, he.arena_of_stall hs ht, ?_⟩
  · obtain ⟨-, hr⟩ | ⟨_, -, hb, -⟩ := he.answer
    · exact hr
    · exact absurd (hb.trans hs) ht
  · obtain hf | ⟨_, rfl⟩ := he.fault_cases
    · exact hf
    · exact absurd hs ht
  · obtain ⟨ops, hc, -⟩ := he.completed
    exact ⟨ops, hc.trace.symm⟩

end Sys2Proof.Machine
end

section
/-! SUPPORT. Which commands write which register, and in which phase (10_state.md R39); what the configuration commands
leave alone (40_configuration.md R118); and the range of every PA level (44_power.md R204). -/

namespace Sys2Proof.Machine

open Sys2Proof.Claims

variable {i : Instr} {s t : State}

/-! ## The configuration commands (40_configuration.md R118) -/

/-- Settles O21: CFG_FRAME, CFG_AES, CFG_SLOTS and CFG_PAYLOAD, each by the ways it ends. -/
theorem configurationLeavesTheOtherEntities : Obligations.ConfigurationLeavesTheOtherEntities := by
  rintro i s t (⟨v, a, rfl⟩ | ⟨e, rfl⟩ | ⟨m, rfl⟩ | ⟨p, rfl⟩) hx
  · obtain ⟨-, rfl⟩ | ⟨-, rfl | ⟨_, rfl⟩⟩ := execCfgFrame_cases hx <;> simp [Ghost.after]
  · obtain ⟨-, rfl⟩ | ⟨-, rfl | ⟨_, rfl⟩⟩ := execCfgAes_cases hx <;> simp [Ghost.after]
  · obtain ⟨-, rfl⟩ | ⟨-, -, rfl⟩ | ⟨-, -, rfl⟩ := execCfgSlots_cases hx <;> simp
  · obtain ⟨_, rfl⟩ | ⟨-, -, -, _, _, rfl, rfl, rfl | ⟨_, rfl⟩⟩ := execCfgPayload_cases hx <;> simp [Ghost.after]

/-! ## PA levels (44_power.md R204) -/

/-- SET_POWER issues one PA level, with the stages and the value of `MAP` (44_power.md R203). -/
theorem paLevel_mem_powerTransactions {m : PowerSetting} {st : Stages} {v : BitVec 5} :
    .paLevel st v ∈ powerTransactions m ↔ st = m.stages ∧ v = m.value := by
  unfold powerTransactions
  split <;> simp

theorem powerValue_toNat {v : Int} (h0 : 0 ≤ v) (h31 : v ≤ 31) : (powerValue v).toNat = v.toNat := by
  rw [powerValue, BitVec.toNat_ofInt, Int.emod_eq_of_lt h0 (by omega)]

/-- The HighPower class: the clamped level lies in -2..17, or in -2..20 with boost, and each stage set shifts it into
its own range (44_power.md R202, R204). -/
theorem powerMap_highPower_range (p : Int) (b : Bool) (st : Stages) (v : BitVec 5)
    (hst : st = (powerMap p b .highPower).stages) (hv : v = (powerMap p b .highPower).value) :
    (st = .s1 ∧ 16 ≤ v.toNat ∧ v.toNat ≤ 31) ∨ (st = .s1s2 ∧ 25 ≤ v.toNat ∧ v.toNat ≤ (if b then 31 else 28)) := by
  have hlimit : highPowerLimit b = 20 ∨ highPowerLimit b = 17 := by cases b <;> decide
  have hmax : (highPowerLimit b + 11).toNat = if b then 31 else 28 := by cases b <;> rfl
  have hlo : -2 ≤ clamp p (-2) (highPowerLimit b) := by
    unfold clamp
    omega
  have hhi : clamp p (-2) (highPowerLimit b) ≤ highPowerLimit b := min_le_right _ _
  subst hst hv
  simp only [powerMap]
  generalize clamp p (-2) (highPowerLimit b) = q at hlo hhi ⊢
  unfold highPowerStages
  split
  · rw [powerValue_toNat (by omega) (by omega)]
    exact .inl ⟨rfl, by omega, by omega⟩
  · rw [powerValue_toNat (by omega) (by omega)]
    exact .inr ⟨rfl, by omega, by rw [← hmax]; omega⟩

/-- Settles O24: what a SET_POWER adds to the trace are transactions of `MAP`'s setting. -/
theorem powerLevelsStayInTheirRanges : Obligations.PowerLevelsStayInTheirRanges := by
  intro dbm b s t ops st v hx htrace hmem
  have hmap : .paLevel st v ∈ powerTransactions (powerMap (sext8 dbm) b s.hp) := by
    obtain rfl | ⟨before, op, after, rest, hops, rfl⟩ := execSetPower_cases hx
    · rw [State.respond_trace, State.setBoost_trace, State.completedAll_trace, List.append_cancel_left_eq] at htrace
      rwa [htrace]
    · rw [State.block_trace, State.completedAll_trace, List.append_cancel_left_eq] at htrace
      exact mem_of_mem_before hops (htrace ▸ hmem)
  obtain ⟨hst, hv⟩ := paLevel_mem_powerTransactions.mp hmap
  refine ⟨fun hp => ?_, fun hp => ?_⟩
  · rw [hst, hp]
    rfl
  · rw [hp] at hst hv
    exact powerMap_highPower_range (sext8 dbm) b st v hst hv

/-! ## The writers of each register (10_state.md R39) -/

@[simp] theorem allocated_vl (pReq : Byte) : (allocated pReq s).vl = s.vl := rfl
@[simp] theorem allocated_ad (pReq : Byte) : (allocated pReq s).ad = s.ad := rfl
@[simp] theorem allocated_aes (pReq : Byte) : (allocated pReq s).aes = s.aes := rfl
@[simp] theorem allocated_n (pReq : Byte) : (allocated pReq s).n = s.n := rfl
@[simp] theorem allocated_hp (pReq : Byte) : (allocated pReq s).hp = s.hp := rfl
@[simp] theorem allocated_phase (pReq : Byte) : (allocated pReq s).phase = .ready := rfl

namespace Effect

variable (he : Effect i s t)
include he

theorem radio_writer (h : t.radio ≠ s.radio) : s.phase = .ready ∧ (i = .receive ∨ i = .poll ∨ i.isSend = true) := by
  cases he with
  | send _ _ _ hi hp | sendBlockWrite _ _ _ _ hi hp => exact ⟨hp, .inr (.inr hi)⟩
  | receive _ hp => exact ⟨hp, .inl rfl⟩
  | pollRearm _ hp => exact ⟨hp, .inr (.inl rfl)⟩
  | _ => simp at h

theorem frameMode_writer (h : t.vl ≠ s.vl ∨ t.ad ≠ s.ad) : s.phase = .opened ∧ ∃ v a, i = .cfgFrame v a := by
  cases he with
  | frame _ _ _ hp | frameBlock _ _ _ _ hp => exact ⟨hp, _, _, rfl⟩
  | _ => simp at h

theorem aes_writer (h : t.aes ≠ s.aes) : s.phase = .opened ∧ ∃ e, i = .cfgAes e := by
  cases he with
  | aes _ _ hp | aesBlock _ _ _ hp => exact ⟨hp, _, rfl⟩
  | _ => simp at h

theorem layout_writer (h : t.pUser ≠ s.pUser ∨ t.pc ≠ s.pc ∨ t.c ≠ s.c) :
    s.phase = .sized ∧ ∃ p, i = .cfgPayload p := by
  cases he with
  | payload _ _ _ hp | payloadBlock _ _ _ _ hp => exact ⟨hp, _, rfl⟩
  | _ => simp at h

theorem n_writer (h : t.n ≠ s.n) : s.phase ≠ .ready ∧ ∃ m, i = .cfgSlots m := by
  cases he with
  | slots _ _ hp => exact ⟨hp, _, rfl⟩
  | _ => simp at h

theorem wIdx_writer (h : t.wIdx ≠ s.wIdx) :
    (s.phase = .ready ∧ i = .poll) ∨ (s.phase = .sized ∧ ∃ p, i = .cfgPayload p) := by
  cases he with
  | payload _ _ _ hp | payloadBlock _ _ _ _ hp => exact .inr ⟨hp, _, rfl⟩
  | pollDrain _ _ _ _ _ _ hp => exact .inl ⟨hp, rfl⟩
  | _ => simp at h

theorem rIdx_writer (h : t.rIdx ≠ s.rIdx) : i = .read ∨ (s.phase = .sized ∧ ∃ p, i = .cfgPayload p) := by
  cases he with
  | payload _ _ _ hp | payloadBlock _ _ _ _ hp => exact .inr ⟨hp, _, rfl⟩
  | readFrame => exact .inl rfl
  | _ => simp at h

theorem phase_writer (h : t.phase ≠ s.phase) : (t.phase = .sized ∧ s.phase = .opened ∧ ∃ m, i = .cfgSlots m) ∨
    (t.phase = .ready ∧ s.phase = .sized ∧ ∃ p, i = .cfgPayload p) := by
  cases he with
  | slots _ _ hp =>
    refine .inl ⟨rfl, ?_, _, rfl⟩
    cases hs : s.phase with
    | opened => rfl
    | sized => exact absurd hs.symm h
    | ready => exact absurd hs hp
  | payload _ _ _ hp | payloadBlock _ _ _ _ hp => exact .inr ⟨rfl, hp, _, rfl⟩
  | _ => simp at h

theorem hp_writer (h : t.hp ≠ s.hp) : t.hp = .highPower ∧ i = .setHighpower := by
  cases he with
  | highpower => exact ⟨rfl, rfl⟩
  | _ => simp at h

theorem boost_writer (h : t.boost ≠ s.boost) : ∃ p b, i = .setPower p b := by
  cases he with
  | power => exact ⟨_, _, rfl⟩
  | _ => simp at h

theorem arena_writer (h : t.arena ≠ s.arena) : s.phase = .ready ∧ i = .poll := by
  obtain ha | ⟨hi, hp, -⟩ := he.arena_cases
  · exact absurd ha h
  · exact ⟨hp, hi⟩

end Effect

/-- A command that changes FAULT is the fault entry, with the fault the table gives (60_exceptions.md R220). -/
theorem fault_writer (hx : exec i s = .next t) (h : t.fault ≠ s.fault) :
    ∃ code, tableFault i s = some code ∧ t = faulted code i s := by
  cases ht : tableFault i s with
  | none => exact absurd (exec_keeps_fault ht hx) h
  | some code => exact ⟨code, rfl, Host.Outcome.next.inj (hx.symm.trans (exec_of_tableFault ht))⟩

/-- Settles O52: the writers of each register, and no command takes from the port. -/
theorem registersHaveOnlyTheirWriters : Obligations.RegistersHaveOnlyTheirWriters := by
  intro i s t hx
  have he := exec_effect hx
  exact ⟨he.radio_writer, he.frameMode_writer, he.aes_writer, he.layout_writer, he.n_writer, he.wIdx_writer,
    he.rIdx_writer, he.phase_writer, he.hp_writer, he.boost_writer, he.arena_writer, fault_writer hx, he.host_inputs⟩

end Sys2Proof.Machine
end

section
/-! SUPPORT. What no command reads (10_state.md R25, R37): of two states that differ in AES and the ghost fields alone,
every command makes two that differ in these alone. -/

namespace Sys2Proof.Machine

open Sys2Proof.Claims

/-! ## States, runs and outcomes that differ in AES and the ghost fields alone -/

/-- The state with other values of AES and of the ghost fields. -/
def State.withHidden (e : Bool) (g : Ghost) (s : State) : State := { s with aes := e, ghost := g }

/-- Two states that differ at most in AES and the ghost fields, which A and G relate. -/
inductive Twin (A : Bool → Bool → Prop) (G : Ghost → Ghost → Prop) : State → State → Prop
  | mk (s : State) (e : Bool) (g : Ghost) (ha : A s.aes e) (hg : G s.ghost g) :
    Twin A G s (s.withHidden e g)

/-- Two runs that end in the same way, with the same value, in such states. -/
inductive RunTwin {α : Type} (A : Bool → Bool → Prop) (G : Ghost → Ghost → Prop) : Run α → Run α → Prop
  | done (a : α) {s s' : State} (h : Twin A G s s') : RunTwin A G (.done a s) (.done a s')
  | stalled {s s' : State} (h : Twin A G s s') : RunTwin A G (.stalled s) (.stalled s')
  | faulted (f : Fault) : RunTwin A G (.faulted f) (.faulted f)

/-- Two outcomes that are the same but for such next states. -/
inductive OutcomeTwin (A : Bool → Bool → Prop) (G : Ghost → Ghost → Prop) :
    Host.Outcome State Fault Refusal → Host.Outcome State Fault Refusal → Prop
  | next {s s' : State} (h : Twin A G s s') : OutcomeTwin A G (.next s) (.next s')
  | fault (f : Fault) : OutcomeTwin A G (.fault f) (.fault f)

section

variable {A : Bool → Bool → Prop} {G : Ghost → Ghost → Prop} {α β : Type} {s s' : State}

theorem RunTwin.andThen {r r' : Run α} {f f' : α → State → Run β} (hr : RunTwin A G r r')
    (hf : ∀ a s s', Twin A G s s' → RunTwin A G (f a s) (f' a s')) : RunTwin A G (r.andThen f) (r'.andThen f') := by
  cases hr with
  | done a h => exact hf a _ _ h
  | stalled h => exact .stalled h
  | faulted e => exact .faulted e

theorem RunTwin.ite {c : Prop} [Decidable c] {r₁ r₂ r₁' r₂' : Run α} (h₁ : RunTwin A G r₁ r₁')
    (h₂ : RunTwin A G r₂ r₂') : RunTwin A G (if c then r₁ else r₂) (if c then r₁' else r₂') := by
  split
  · exact h₁
  · exact h₂

theorem OutcomeTwin.ite {c : Prop} [Decidable c] {o₁ o₂ o₁' o₂' : Host.Outcome State Fault Refusal}
    (h₁ : OutcomeTwin A G o₁ o₁') (h₂ : OutcomeTwin A G o₂ o₂') :
    OutcomeTwin A G (if c then o₁ else o₂) (if c then o₁' else o₂') := by
  split
  · exact h₁
  · exact h₂

/-- The second of two such states, in terms of the first. -/
theorem Twin.exists_eq (h : Twin A G s s') : ∃ e g, s' = s.withHidden e g := by
  cases h with | mk e g => exact ⟨e, g, rfl⟩

/-! ## Operations that write neither -/

theorem Twin.respond (h : Twin A G s s') (v : List Byte) : Twin A G (s.respond v) (s'.respond v) := by
  cases h with | mk e g ha hg => exact .mk (s.respond v) e g ha hg

theorem Twin.setRadio (h : Twin A G s s') (r : RadioState) : Twin A G (s.setRadio r) (s'.setRadio r) := by
  cases h with | mk e g ha hg => exact .mk (s.setRadio r) e g ha hg

theorem Twin.setBoost (h : Twin A G s s') (b : Bool) : Twin A G (s.setBoost b) (s'.setBoost b) := by
  cases h with | mk e g ha hg => exact .mk (s.setBoost b) e g ha hg

theorem Twin.setReadIndex (h : Twin A G s s') (i : BitVec 8) : Twin A G (s.setReadIndex i) (s'.setReadIndex i) := by
  cases h with | mk e g ha hg => exact .mk (s.setReadIndex i) e g ha hg

theorem Twin.push (h : Twin A G s s') : Twin A G (push s) (push s') := by
  cases h with | mk e g ha hg => exact .mk (Machine.push s) e g ha hg

theorem State.dropDraw_withHidden (e : Bool) (g : Ghost) (s : State) :
    (s.withHidden e g).dropDraw = s.dropDraw.withHidden e g := by
  unfold State.dropDraw State.withHidden
  dsimp only
  split <;> rfl

theorem Twin.dropDraw (h : Twin A G s s') : Twin A G s.dropDraw s'.dropDraw := by
  cases h with
  | mk e g ha hg =>
    rw [State.dropDraw_withHidden]
    exact .mk s.dropDraw e g (by simpa using ha) (by simpa using hg)

theorem Twin.dropDraws (h : Twin A G s s') (n : Nat) : Twin A G (s.dropDraws n) (s'.dropDraws n) := by
  induction n generalizing s s' with
  | zero => exact h
  | succ n ih => exact ih h.dropDraw

theorem Twin.nextDraw_eq (h : Twin A G s s') : s'.nextDraw = s.nextDraw := by
  cases h with | mk => exact State.nextDraw_congr rfl rfl

theorem Twin.draws_eq (h : Twin A G s s') (n : Nat) : s'.draws n = s.draws n := by
  cases h with | mk e g => exact State.draws_congr (s := s) (s' := s.withHidden e g) rfl rfl n

theorem RunTwin.finish {r r' : Run (List Byte)} (h : RunTwin A G r r') : OutcomeTwin A G (finish r) (finish r') := by
  cases h with
  | done v h => exact .next (h.respond v)
  | stalled h => exact .next h
  | faulted f => exact .fault f

theorem Twin.raiseFault (h : Twin A G s s') (code : FaultCode) (word : CommandWord) :
    OutcomeTwin A G (raiseFault code word s) (raiseFault code word s') := by
  cases h with | mk e g ha hg => exact .next (.mk (s.setFault code word) e g ha hg)

/-! ## The arena -/

theorem Twin.arenaWrite (h : Twin A G s s') (k : Params) (a : Nat) (b : Byte) :
    RunTwin A G (arenaWrite k a b s) (arenaWrite k a b s') := by
  cases h with
  | mk e g ha hg => exact .ite (.done () (.mk (s.setArena (Memory.write s.arena a b)) e g ha hg)) (.faulted _)

theorem Twin.memWrite (h : Twin A G s s') (k : Params) (a : Nat) (bs : List Byte) :
    RunTwin A G (memWrite k a bs s) (memWrite k a bs s') := by
  induction bs generalizing a s s' with
  | nil => exact .done () h
  | cons b bs ih => exact (h.arenaWrite k a b).andThen fun _ _ _ h => ih h (a + 1)

theorem Twin.arenaRead (h : Twin A G s s') (k : Params) (a : Nat) :
    RunTwin A G (arenaRead k a s) (arenaRead k a s') := by
  have harena : s'.arena = s.arena := by cases h; rfl
  unfold Machine.arenaRead
  rw [harena]
  refine .ite ?_ (.faulted _)
  cases Memory.read? s.arena a with
  | none => exact .faulted _
  | some b => exact .done b h

theorem Twin.memRead (h : Twin A G s s') (k : Params) (a n : Nat) :
    RunTwin A G (memRead k a n s) (memRead k a n s') := by
  induction n generalizing a s s' with
  | zero => exact .done [] h
  | succ n ih =>
    exact (h.arenaRead k a).andThen fun b _ _ h => (ih h (a + 1)).andThen fun bs _ _ h => .done (b :: bs) h

theorem Twin.readBytes (h : Twin A G s s') (k : Params) (a len : Nat) :
    RunTwin A G (readBytes k a len s) (readBytes k a len s') :=
  (h.memRead k a len).andThen fun _ _ _ h => .done _ h

theorem Twin.readSlot (h : Twin A G s s') (k : Params) : RunTwin A G (readSlot k s) (readSlot k s') := by
  obtain ⟨e, g, rfl⟩ := h.exists_eq
  refine .ite ((h.arenaRead k _).andThen fun first s1 s1' h1 => ?_) (h.readBytes k _ _)
  obtain ⟨e, g, rfl⟩ := h1.exists_eq
  exact h1.readBytes k _ _

theorem Twin.readFrame (h : Twin A G s s') (k : Params) : RunTwin A G (readFrame k s) (readFrame k s') := by
  obtain ⟨e, g, rfl⟩ := h.exists_eq
  exact .ite (.done _ h) ((h.readSlot k).andThen fun response _ _ h1 => .done response (h1.setReadIndex _))

/-! ## Transactions -/

section

variable (hG : ∀ g g' op, G g g' → G (Ghost.after g op) (Ghost.after g' op))
include hG

theorem Twin.issue (h : Twin A G s s') (op : Transaction) : RunTwin A G (issue op s) (issue op s') := by
  cases h with
  | mk e g ha hg =>
    unfold Machine.issue State.withHidden
    dsimp only
    split
    · exact .stalled (.mk (s.block op _) e g ha hg)
    · exact .done () (.mk (s.completed op) e (g.after op) ha (hG _ _ op hg))

theorem Twin.issueAll (h : Twin A G s s') (ops : List Transaction) :
    RunTwin A G (issueAll ops s) (issueAll ops s') := by
  induction ops generalizing s s' with
  | nil => exact .done () h
  | cons op ops ih => exact (h.issue hG op).andThen fun _ _ _ h => ih h

theorem Twin.issueForByte (h : Twin A G s s') (op : Transaction) :
    RunTwin A G (issueForByte op s) (issueForByte op s') :=
  (h.issue hG op).andThen fun _ _ _ h => h.nextDraw_eq ▸ .done _ h.dropDraw

theorem Twin.readFifo (h : Twin A G s s') (n : Nat) : RunTwin A G (readFifo n s) (readFifo n s') :=
  (h.issue hG _).andThen fun _ _ _ h => h.draws_eq n ▸ .done _ (h.dropDraws n)

theorem Twin.configureChip (h : Twin A G s s') (op : Transaction) :
    OutcomeTwin A G (configureChip op s) (configureChip op s') :=
  ((h.issue hG op).andThen fun _ _ _ h => .done [] h).finish

theorem Twin.armRx (h : Twin A G s s') : RunTwin A G (armRx s) (armRx s') := by
  obtain ⟨e, g, rfl⟩ := h.exists_eq
  exact (h.issueAll hG _).andThen fun _ _ _ h => .done () (h.setRadio _)

theorem Twin.armTx (h : Twin A G s s') (frame : List Byte) : RunTwin A G (armTx frame s) (armTx frame s') := by
  obtain ⟨e, g, rfl⟩ := h.exists_eq
  exact (h.issueAll hG _).andThen fun _ _ _ h => (h.setRadio .sending).issue hG _

theorem Twin.rearm (h : Twin A G s s') : RunTwin A G (rearm s) (rearm s') :=
  (h.armRx hG).andThen fun _ _ _ h => .done [] h

theorem Twin.drainFixed (h : Twin A G s s') (k : Params) (base : Nat) :
    RunTwin A G (drainFixed k base s) (drainFixed k base s') := by
  obtain ⟨e, g, rfl⟩ := h.exists_eq
  exact (h.readFifo hG _).andThen fun _ _ _ h => h.memWrite k _ _

theorem Twin.drainVariable (h : Twin A G s s') (k : Params) (base : Nat) :
    RunTwin A G (drainVariable k base s) (drainVariable k base s') := by
  refine (h.issueForByte hG _).andThen fun raw s1 s1' h1 => ?_
  obtain ⟨e, g, rfl⟩ := h1.exists_eq
  exact (h1.readFifo hG _).andThen fun _ _ _ h2 => (h2.arenaWrite k _ _).andThen fun _ _ _ h3 => h3.memWrite k _ _

theorem Twin.drain (h : Twin A G s s') (k : Params) (i : BitVec 8) : RunTwin A G (drain k i s) (drain k i s') := by
  obtain ⟨e, g, rfl⟩ := h.exists_eq
  exact .ite (h.drainVariable hG k _) (h.drainFixed hG k _)

theorem Twin.pollDecision (h : Twin A G s s') (k : Params) (flags1 : Byte) :
    RunTwin A G (pollDecision k flags1 s) (pollDecision k flags1 s') := by
  obtain ⟨e, g, rfl⟩ := h.exists_eq
  unfold Machine.pollDecision
  dsimp only [State.withHidden]
  split
  · exact (h.drain hG k _).andThen fun _ _ _ h => .done [] h.push
  · exact .done [] h
  · exact h.rearm hG
  · exact .done [] h

theorem Twin.sendCommon (h : Twin A G s s') (vv : Bool) (address : Option Byte) (payload : List Byte) (lengthOk : Bool)
    (word : CommandWord) : OutcomeTwin A G (sendCommon vv address payload lengthOk word s)
      (sendCommon vv address payload lengthOk word s') := by
  obtain ⟨e, g, rfl⟩ := h.exists_eq
  exact .ite (h.raiseFault _ _) <| .ite (h.raiseFault _ _) <| .ite (h.raiseFault _ _)
    ((h.armTx hG _).andThen fun _ _ _ h => .done [] h).finish

/-! ## Commands -/

/-- Every command makes such states of such states; CFG_AES, which writes AES, if A relates its operand to itself. -/
theorem Twin.exec (h : Twin A G s s') (i : Instr) (hi : ∀ b, i = .cfgAes b → A b b) :
    OutcomeTwin A G (exec i s) (exec i s') := by
  have h' := h
  cases h' with
  | mk e g ha hg =>
    cases i with
    | cfgFrame vl ad =>
      have hset : Twin A G (s.setFrameMode vl ad) ((s.withHidden e g).setFrameMode vl ad) :=
        .mk (s.setFrameMode vl ad) e g ha hg
      exact .ite (h.raiseFault _ _) (hset.configureChip hG _)
    | cfgAes b =>
      have hset : Twin A G (s.setAes b) ((s.withHidden e g).setAes b) := .mk (s.setAes b) b g (hi b rfl) hg
      exact .ite (h.raiseFault _ _) (hset.configureChip hG _)
    | cfgSlots n =>
      exact .ite (h.raiseFault _ _) <| .ite (h.raiseFault _ _) <|
        .next (.mk ((s.chooseSlots n).respond []) e g ha hg)
    | cfgPayload p =>
      have hset : Twin A G (allocated p s) (allocated p (s.withHidden e g)) := .mk (allocated p s) e g ha hg
      exact .ite (h.raiseFault _ _) <| .ite (h.raiseFault _ _) <| .ite (h.raiseFault _ _) (hset.configureChip hG _)
    | setHighpower => exact .next (.mk ((s.setClass .highPower).respond []) e g ha hg)
    | setPower d b => exact ((h.issueAll hG _).andThen fun _ _ _ h => .done [] (h.setBoost _)).finish
    | receive => exact .ite (h.raiseFault _ _) (h.rearm hG).finish
    | poll =>
      exact .ite (h.raiseFault _ _)
        ((h.issueForByte hG _).andThen fun flags1 _ _ h => h.pollDecision hG _ flags1).finish
    | available => exact .next (h.respond _)
    | read => exact (h.readFrame _).finish
    | canSend => exact .next (h.respond _)
    | send p => exact h.sendCommon hG ..
    | sendAddr a p => exact h.sendCommon hG ..
    | sendVar p => exact h.sendCommon hG ..
    | sendAddrVar a p => exact h.sendCommon hG ..

end

end

/-! ## The statements -/

/-- Settles O54: with AES related to e alone, and the ghost fields equal, both outcomes differ in AES alone. -/
theorem noCommandReadsAes : Obligations.NoCommandReadsAes := by
  intro i s e hi
  have hs : Twin (fun _ e' => e' = e) Eq s { s with aes := e } := .mk s e s.ghost rfl rfl
  have ho := hs.exec (by rintro g _ op rfl; rfl) i fun b hb => absurd hb (hi b)
  generalize exec i s = o at ho ⊢
  generalize exec i { s with aes := e } = o' at ho ⊢
  cases ho with
  | next h => cases h with | mk e' g ha hg => subst ha hg; rfl
  | fault f => rfl

/-- Settles O55: with AES equal, and the ghost fields unrelated, both outcomes differ in the ghost fields alone. -/
theorem noCommandReadsTheGhost : Obligations.NoCommandReadsTheGhost := by
  intro i s g
  have hs : Twin Eq (fun _ _ => True) s { s with ghost := g } := .mk s s.aes g rfl trivial
  have ho := hs.exec (fun _ _ _ _ => trivial) i fun _ _ => rfl
  generalize exec i s = o at ho ⊢
  generalize exec i { s with ghost := g } = o' at ho ⊢
  cases ho with
  | next h => cases h with | mk e' g ha => subst ha; rfl
  | fault f => rfl

end Sys2Proof.Machine
end

section
/-! SUPPORT. POLL's drain (41_state_machine.md R141, 43_frame_codec.md R184 to R186) once its transactions complete, and
the round trip of a frame over two states (43_frame_codec.md R188). -/

namespace Sys2Proof.Machine

open Sys2Proof.Claims

variable {k : Params} {s t : State} {frame data : List Byte}

/-! ## The drain and the push -/

/-- The decision is to drain in Receiving with am = 1 (41_state_machine.md R141). -/
theorem pollDecision_drain {flags1 : Byte} (hr : s.radio = .receiving) (ha : automodeActive k flags1 = true) :
    pollDecision k flags1 s = drainAndPush k s := by
  rw [pollDecision, hr, ha]

/-- Once the drain is done POLL pushes and places the empty response. -/
theorem finish_drainAndPush {m : Memory} (hd : drain k s.wIdx s = .done () (t.setArena m)) :
    finish (drainAndPush k s) =
      .next { t with arena := m, wIdx := nextIndex t.n t.wIdx, responses := t.responses ++ [[]] } := by
  rw [drainAndPush, hd, Run.andThen_done, finish_done]
  rfl

theorem drain_fixed (hv : s.vl = false) (i : BitVec 8) : drain k i s = drainFixed k (slotBase i s) s := by
  rw [drain, hv, if_neg Bool.false_ne_true]

theorem drain_variable (hv : s.vl = true) (i : BitVec 8) : drain k i s = drainVariable k (slotBase i s) s := by
  rw [drain, if_pos hv]

/-- The flag read leaves the draws after its own as they are (20_memory.md R56). -/
theorem inputs_after_flags1 (s : State) : (s.completed .flags1).dropDraw.chipBytes = s.dropDraw.chipBytes ∧
    (s.completed .flags1).dropDraw.drawn = s.dropDraw.drawn :=
  State.dropDraw_inputs rfl rfl

theorem transactionsComplete_after_flags1 {n : Nat} (h : transactionsComplete (n + 1) s) :
    transactionsComplete n (s.completed .flags1).dropDraw :=
  transactionsComplete_congr (by simp) (transactionsComplete_completed (op := .flags1) h)

/-- Settles O34: the flag read, the drain of PC bytes, and the push. -/
theorem pollDrainsAFixedFrame : Obligations.PollDrainsAFixedFrame := by
  intro s hp hr ha hv hc hfit
  have hd := drain_fixed (k := Config.params) (s := (s.completed .flags1).dropDraw) (by simpa using hv)
    (s.completed .flags1).dropDraw.wIdx
  rw [drainFixed_done (transactionsComplete_after_flags1 hc) (by simpa [slotBase] using hfit)] at hd
  refine ⟨Memory.writeAll s.arena (s.wIdx.toNat * s.c.toNat) (s.dropDraw.draws s.pc.toNat), ?_,
    fun j hj => Memory.read?_writeAll_inside hj, State.draws_length _ _, fun a ho => ?_⟩
  · rw [exec_poll_of_ready hp hc, pollDecision_drain (by simpa using hr) ha, finish_drainAndPush hd]
    simp [slotBase, nextIndex, State.draws_congr (inputs_after_flags1 s).1 (inputs_after_flags1 s).2]
  · exact Memory.read?_writeAll_outside (by rwa [State.draws_length])

/-- Settles O35: the flag read, the drain of the length byte and of as many bytes as it says, clamped, and the push. -/
theorem pollDrainsAVariableFrame : Obligations.PollDrainsAVariableFrame := by
  intro s len payload hp hr ha hv hc hlen hpayload hfit
  obtain ⟨hchip, hdrawn⟩ := inputs_after_flags1 s
  obtain ⟨hchip', hdrawn'⟩ := State.dropDraw_inputs hchip hdrawn
  have hraw := State.nextDraw_congr hchip hdrawn
  have hl : drainLength (s.completed .flags1).dropDraw.nextDraw (s.completed .flags1).dropDraw = len := by
    rw [hraw, drainLength, hlen]
    simp [zext8]
  have hpl : (s.completed .flags1).dropDraw.dropDraw.draws len = payload := by
    rw [hpayload, State.draws_congr hchip' hdrawn']
  have hd := drain_variable (k := Config.params) (s := (s.completed .flags1).dropDraw) (by simpa using hv)
    (s.completed .flags1).dropDraw.wIdx
  rw [drainVariable_done (transactionsComplete_after_flags1 hc) (by rw [hl]; simpa [slotBase] using hfit), hl,
    hpl] at hd
  have hlength : payload.length = len := by rw [hpayload, State.draws_length]
  refine ⟨Memory.writeAll s.arena (s.wIdx.toNat * s.c.toNat) (lengthByte len :: payload), ?_, hlength,
    Memory.read?_writeAll_inside (j := 0) (bs := lengthByte len :: payload) (Nat.succ_pos _), fun j hj => ?_,
    fun a ho => ?_⟩
  · rw [exec_poll_of_ready hp hc, pollDecision_drain (by simpa using hr) ha, finish_drainAndPush hd]
    simp [slotBase, nextIndex]
  · exact Memory.read?_writeAll_inside hj
  · exact Memory.read?_writeAll_outside (by rw [List.length_cons]; omega)

/-! ## The round trip (43_frame_codec.md R188) -/

/-- A SEND command that completes has passed its checks, and the last transaction is the write of its frame
(41_state_machine.md R134, R135). -/
theorem sendCommon_frame {vv : Bool} {address : Option Byte} {payload : List Byte} {lengthOk : Bool}
    {word : CommandWord} (hx : sendCommon vv address payload lengthOk word s = .next t) (hf : t.fault = none)
    (hb : t.blocked = none) (hl : t.trace.getLast? = some (.fifoWrite frame)) :
    s.vl = vv ∧ s.ad = address.isSome ∧ lengthOk = true ∧ frame = encodeFrame vv address payload := by
  obtain ⟨_, rfl⟩ | ⟨-, hv, ha, hlen, rfl | ⟨_, _, _, _, -, rfl⟩ | ⟨_, rfl⟩⟩ := sendCommon_cases hx
  · simp at hf
  · rw [State.respond_trace, State.setRadio_trace, State.completedAll_trace, ← List.append_assoc,
      List.getLast?_concat, Option.some.injEq, Transaction.fifoWrite.injEq] at hl
    exact ⟨hv, ha, hlen, hl.symm⟩
  · simp at hb
  · simp at hb

/-- With at least two slots a push leaves w_idx at another slot (42_ring_buffer.md R161). -/
theorem CoreInv.nextIndex_ne (h : CoreInv k s) (hp : s.phase = .ready) (hn : 2 ≤ s.n.toNat) :
    s.wIdx ≠ nextIndex s.n s.wIdx := by
  intro heq
  have hw := (h.indices hp).1
  have := congrArg BitVec.toNat heq
  rw [nextIndex_toNat (by omega), mod_of_lt_two_mul (by omega)] at this
  split at this <;> omega

/-- A receiver with an empty ring of at least two slots, whose FIFO answers a POLL that reads am = 1 with this frame. -/
structure Receives (r : State) (frame rest : List Byte) : Prop where
  inv : CoreInv Config.params r
  ready : r.phase = .ready
  slots : 2 ≤ r.n.toNat
  empty : r.rIdx = r.wIdx
  receiving : r.radio = .receiving
  noStalls : r.stalls = []
  automode : nextAutomode r = true
  answers : r.dropDraw.chipBytes = frame ++ rest

/-- A POLL and a READ deliver these data and take exactly the frame's bytes. -/
def Delivers (r : State) (data rest : List Byte) : Prop :=
  ∃ u v : State, exec .poll r = .next u ∧ exec .read u = .next v ∧
    v.responses = r.responses ++ [[], BitVec.ofNat 8 data.length :: data] ∧ v.chipBytes = rest ∧ v.rIdx = v.wIdx

/-- What a POLL that drains leaves for the READ after it, beside the arena: the layout, w_idx one slot further, and the
bytes the FIFO answers next. -/
structure Pushed (r u : State) (rest : List Byte) : Prop where
  vl : u.vl = r.vl := by simp
  pc : u.pc = r.pc := by simp
  c : u.c = r.c := by simp
  n : u.n = r.n := by simp
  rIdx : u.rIdx = r.rIdx := by simp
  wIdx : u.wIdx = nextIndex r.n r.wIdx
  responses : u.responses = r.responses ++ [[]]
  chipBytes : u.chipBytes = rest

/-- Then READ answers the frame of the slot, and leaves the ring empty again (42_ring_buffer.md R166). -/
theorem Receives.delivers_of_pushed {r u : State} {rest : List Byte} (h : Receives r frame rest)
    (hx : exec .poll r = .next u) (hu : Pushed r u rest)
    (hs : readSlot Config.params u = .done (lengthByte data.length :: data) u) : Delivers r data rest := by
  have hne : u.rIdx ≠ u.wIdx := by
    rw [hu.rIdx, hu.wIdx, h.empty]
    exact h.inv.nextIndex_ne h.ready h.slots
  refine ⟨u, _, hx, exec_read_pending hne hs, ?_, hu.chipBytes, ?_⟩
  · rw [State.respond_responses, State.setReadIndex_responses, hu.responses, List.append_assoc]
    rfl
  · rw [State.respond_rIdx, State.setReadIndex_rIdx, State.respond_wIdx, State.setReadIndex_wIdx, hu.n, hu.rIdx,
      hu.wIdx, h.empty]

/-- A FIFO read takes the bytes the FIFO answers first (20_memory.md R55). -/
theorem chipBytes_after_read {op : Transaction} {n : Nat} {rest : List Byte} (h : s.chipBytes = data ++ rest)
    (hn : data.length = n) : ((s.completed op).dropDraws n).chipBytes = rest := by
  rw [← hn, (State.draws_of_listed (s := s.completed op) h).2]

theorem chipBytes_dropDraw {b : Byte} {rest : List Byte} (h : s.chipBytes = b :: rest) :
    s.dropDraw.chipBytes = rest := by
  rw [State.dropDraw_cons h]

theorem chipBytes_after_byte {op : Transaction} {b : Byte} {rest : List Byte} (h : s.chipBytes = b :: rest) :
    (s.completed op).dropDraw.chipBytes = rest :=
  chipBytes_dropDraw h

/-- A fixed-length frame is delivered as it is (43_frame_codec.md R186, R187). -/
theorem Receives.delivers_fixed {r : State} {rest : List Byte} (h : Receives r data rest) (hv : r.vl = false)
    (hl : data.length = r.pc.toNat) : Delivers r data rest := by
  have hfit := h.inv.slot_fits h.ready (h.inv.indices h.ready).1
  have hslot := h.inv.slot h.ready
  rw [hv, Bool.toNat_false] at hslot
  have hdraws : r.dropDraw.draws r.pc.toNat = data := by rw [← hl, (State.draws_of_listed h.answers).1]
  obtain ⟨m, hx, hbytes, -, -⟩ := pollDrainsAFixedFrame r h.ready h.receiving h.automode hv
    (transactionsComplete_of_no_stalls h.noStalls 2) (by omega)
  simp only [hdraws] at hbytes
  refine h.delivers_of_pushed hx { wIdx := rfl, responses := rfl, chipBytes := ?_ } (readSlot_fixed ?_ ?_ ?_ ?_)
  · exact chipBytes_after_read ((inputs_after_flags1 r).1.trans h.answers) hl
  · simpa using hv
  · simpa using hl
  · have hbase : r.wIdx.toNat * r.c.toNat + data.length ≤ Config.params.arenaBytes := by omega
    simpa [slotBase, h.empty] using hbase
  · simpa [slotBase, h.empty] using hbytes

/-- A variable-length frame is delivered without its length byte (43_frame_codec.md R185, R187). -/
theorem Receives.delivers_variable {r : State} {rest : List Byte}
    (h : Receives r (lengthByte data.length :: data) rest) (hv : r.vl = true) (hl : data.length ≤ r.pc.toNat) :
    Delivers r data rest := by
  have hfit := h.inv.slot_fits h.ready (h.inv.indices h.ready).1
  have hslot := h.inv.slot h.ready
  have hpc := h.inv.pc_le h.ready
  rw [hv, Bool.toNat_true] at hslot
  have hbyte : (lengthByte data.length).toNat = data.length := lengthByte_toNat (by omega)
  have hfirst : r.dropDraw.nextDraw = lengthByte data.length := State.nextDraw_cons h.answers
  have hrest : r.dropDraw.dropDraw.chipBytes = data ++ rest := chipBytes_dropDraw h.answers
  have hlen : data.length = min r.dropDraw.nextDraw.toNat (r.c.toNat - 1) := by
    rw [hfirst, hbyte]
    omega
  obtain ⟨m, hx, -, hlead, hbytes, -⟩ := pollDrainsAVariableFrame r data.length data h.ready h.receiving h.automode hv
    (transactionsComplete_of_no_stalls h.noStalls 3) hlen (State.draws_of_listed hrest).1.symm (by omega)
  refine h.delivers_of_pushed hx { wIdx := rfl, responses := rfl, chipBytes := ?_ }
    (readSlot_variable (first := lengthByte data.length) ?_ ?_ ?_ ?_ ?_)
  · exact chipBytes_after_read (chipBytes_after_byte ((inputs_after_flags1 r).1.trans h.answers)) rfl
  · simpa using hv
  · simpa [slotBase, h.empty, lengthByte] using hlead
  · simpa [readLength, zext8, hbyte] using hl
  · have hbase : r.wIdx.toNat * r.c.toNat + 1 + data.length ≤ Config.params.arenaBytes := by omega
    simpa [slotBase, h.empty] using hbase
  · simpa [slotBase, h.empty] using hbytes

/-- What a completed SEND command has sent is delivered to a receiver of the same configuration: the frame is the data,
which fill PC bytes, or it is the data behind their length (43_frame_codec.md R180 to R183). -/
theorem delivers_of_sendCommon {vv : Bool} {address : Option Byte} {payload rest : List Byte} {lengthOk : Bool}
    {word : CommandWord} {r : State} (hx : sendCommon vv address payload lengthOk word s = .next t)
    (hf : t.fault = none) (hb : t.blocked = none) (hlast : t.trace.getLast? = some (.fifoWrite frame))
    (hfixed : vv = false → lengthOk = true → payload.length = s.pUser.toNat) (h : Receives r frame rest)
    (hvl : r.vl = s.vl) (had : r.ad = s.ad) (hu : r.pUser = s.pUser)
    (hl : (address.toList ++ payload).length ≤ r.pc.toNat) : Delivers r (address.toList ++ payload) rest := by
  obtain ⟨hv, ha, hok, rfl⟩ := sendCommon_frame hx hf hb hlast
  have hcap := h.inv.capacity h.ready
  rw [hvl, had, hu, hv, ha] at hcap
  cases vv with
  | false =>
    have hlen : (encodeFrame false address payload).length = r.pc.toNat := by
      rw [encodeFrame_length, hfixed rfl hok, hcap]
    cases address <;> exact h.delivers_fixed (hvl.trans hv) hlen
  | true => cases address <;> exact h.delivers_variable (hvl.trans hv) hl

/-- Settles O56: the four SEND commands, each by its variant of `SEND_COMMON`. -/
theorem sentFramesAreReadBack : Obligations.SentFramesAreReadBack := by
  intro i data frame rest flags s t r hdata hx hf hb hlast hinv hp hvl had hu hl hn hempty hr hstalls hchip hflag
  have h : Receives r frame rest :=
    { inv := hinv, ready := hp, slots := hn, empty := hempty, receiving := hr, noStalls := hstalls
      automode := by rw [nextAutomode, State.nextDraw_cons hchip, hflag]
      answers := chipBytes_dropDraw hchip }
  cases i with
  | send p =>
    obtain rfl := Option.some.inj hdata
    exact delivers_of_sendCommon (address := none) hx hf hb hlast (fun _ => decide_eq_true_iff.mp) h hvl had hu hl
  | sendAddr a p =>
    obtain rfl := Option.some.inj hdata
    exact delivers_of_sendCommon (address := some a) hx hf hb hlast (fun _ => decide_eq_true_iff.mp) h hvl had hu hl
  | sendVar p =>
    obtain rfl := Option.some.inj hdata
    exact delivers_of_sendCommon (address := none) hx hf hb hlast (fun hv => by cases hv) h hvl had hu hl
  | sendAddrVar a p =>
    obtain rfl := Option.some.inj hdata
    exact delivers_of_sendCommon (address := some a) hx hf hb hlast (fun hv => by cases hv) h hvl had hu hl
  | _ => cases hdata

end Sys2Proof.Machine
end

section
/-! SUPPORT. Where a command stalls (20_memory.md R57, R61): the transactions before the stalled one are completed, the
registers written by then are written, and the stalls to come are what the input list leaves. -/

namespace Sys2Proof.Machine

open Sys2Proof.Claims

variable {i : Instr} {k : Params} {s t : State} {later : List Nat}

/-! ## Shared operations that stall -/

/-- A block changes the blocked transaction and the stalls to come alone. -/
theorem block_eq (op : Transaction) (later : List Nat) (h : t.stallCursor = s.stallCursor := by simp) :
    t.block op later = { t with
      blocked := some op
      stalls := (stallsToCome later s.stallCursor).1
      stallCursor := (stallsToCome later s.stallCursor).2 } := by
  rw [State.block, h]

theorem transactionsComplete_of_stalls {m : Nat} (h : s.stalls = m :: later) : transactionsComplete m s := by
  simp [transactionsComplete, h]

theorem issue_stalled {op : Transaction} (h : s.stalls = 0 :: later) : issue op s = .stalled (s.block op later) := by
  simp [issue, h]

theorem issueForByte_stalled {op : Transaction} (h : s.stalls = 0 :: later) :
    issueForByte op s = .stalled (s.block op later) := by
  rw [issueForByte, issue_stalled h, Run.andThen_stalled]

theorem readFifo_stalled {n : Nat} (h : s.stalls = 0 :: later) :
    readFifo n s = .stalled (s.block (.fifoRead n) later) := by
  rw [readFifo, issue_stalled h, Run.andThen_stalled]

/-- Once as many transactions have completed as come before the next stall, the stall is the next one. -/
theorem completedAll_stalls {ops : List Transaction} (h : s.stalls = ops.length :: later) :
    (s.completedAll ops).stalls = 0 :: later := by
  induction ops generalizing s with
  | nil => exact h
  | cons op ops ih => exact ih (by simp [h, stallsAfter])

/-- `ARM_RX` and the empty response, as the transactions and what comes after them (41_state_machine.md R131). -/
theorem rearm_eq (s : State) : rearm s =
    (issueAll (armRxTransactions s.boost) s).andThen fun _ s' => .done [] (s'.setRadio .receiving) :=
  Run.andThen_assoc _ _ _

/-! ## Commands that write registers and then issue one transaction -/

theorem stallsWith_of_configureChip {op : Transaction} {upd : State → State}
    (hx : exec i s = configureChip op (upd s)) (hstalls : (upd s).stalls = s.stalls)
    (hcursor : (upd s).stallCursor = s.stallCursor) : stallsWith i s [op] fun _ => upd := by
  intro j hj later hs
  obtain rfl : j = 0 := by simpa using hj
  refine ⟨(stallsToCome later s.stallCursor).1, (stallsToCome later s.stallCursor).2, hx.trans ?_⟩
  rw [configureChip, issue_stalled (hstalls.trans hs), Run.andThen_stalled, finish_stalled, block_eq op later hcursor]
  rfl

/-! ## Commands that issue their transactions first -/

theorem stallsWith_of_issueAll {ops : List Transaction} {f : Unit → State → Run (List Byte)}
    (hx : exec i s = finish ((issueAll ops s).andThen f)) : stallsWith i s ops fun _ t => t := by
  intro j hj later hs
  refine ⟨(stallsToCome later s.stallCursor).1, (stallsToCome later s.stallCursor).2, hx.trans ?_⟩
  rw [issueAll_stalled hj hs, Run.andThen_stalled, finish_stalled, block_eq (s := s)]

/-- `ARM_TX` has written `state` exactly if it stalls in its FIFO write (41_state_machine.md R134). -/
theorem stallsWith_of_armTx {frame : List Byte} {f : Unit → State → Run (List Byte)}
    (hx : exec i s = finish ((armTx frame s).andThen f)) : stallsWith i s (armTxOps s.boost frame)
      (fun j t => if j + 1 = (armTxOps s.boost frame).length then { t with radio := .sending } else t) := by
  intro j hj later hs
  refine ⟨(stallsToCome later s.stallCursor).1, (stallsToCome later s.stallCursor).2, hx.trans ?_⟩
  simp only [← armTxTransactions_append_fifoWrite] at hj ⊢
  rw [List.length_append, List.length_singleton] at hj
  obtain hlt | rfl : j < (armTxTransactions s.boost).length ∨ j = (armTxTransactions s.boost).length := by omega
  · rw [armTx, issueAll_stalled hlt hs, Run.andThen_stalled, Run.andThen_stalled, finish_stalled, block_eq (s := s),
      if_neg (by rw [List.length_append, List.length_singleton]; omega), List.take_append_of_le_length hlt.le]
    simp [hlt]
  · have hdone := issueAll_done (transactionsComplete_of_stalls hs)
    have hlast := completedAll_stalls hs
    rw [armTx, hdone, Run.andThen_done, issue_stalled (by simpa using hlast), Run.andThen_stalled, finish_stalled,
      block_eq (s := s)]
    simp [State.setRadio]

theorem sendStallsWith_of_sendCommon {vv : Bool} {address : Option Byte} {payload : List Byte} {lengthOk : Bool}
    {rule : Prop} (hrule : rule → lengthOk = true)
    (hx : exec i s = sendCommon vv address payload lengthOk (encodeWord i) s) :
    sendStallsWith i vv address.isSome rule (encodeFrame vv address payload) s := fun hp hv ha hr =>
  stallsWith_of_armTx (hx.trans (sendCommon_past_checks hp hv ha (hrule hr)))

/-- Settles O59: each command past its checks, by where it issues its transactions. -/
theorem stalledCommandsHaveTakenTheirEarlierSteps : Obligations.StalledCommandsHaveTakenTheirEarlierSteps := by
  intro s
  refine ⟨fun vl ad hp => ?_, fun e hp => ?_, ?_, fun dbm b hp => ?_, fun dbm b q hp hq => ?_, fun hp => ?_,
    fun payload => ?_, fun address payload => ?_, fun payload => ?_, fun address payload => ?_⟩
  · exact stallsWith_of_configureChip ((exec_cfgFrame vl ad s).trans (if_neg (not_not.mpr hp))) rfl rfl
  · exact stallsWith_of_configureChip ((exec_cfgAes e s).trans (if_neg (not_not.mpr hp))) rfl rfl
  · rintro pReq _ _ rfl rfl hp hb hf
    refine stallsWith_of_configureChip ?_ rfl rfl
    rw [exec_cfgPayload, if_neg (not_not.mpr hp), if_neg (Nat.not_lt.mpr hb)]
    exact if_neg (Nat.not_lt.mpr hf)
  · have h := stallsWith_of_issueAll (exec_setPower dbm b s)
    rw [hp] at h
    exact h
  · have h := stallsWith_of_issueAll (exec_setPower dbm b s)
    rw [hp, powerTransactions_highPower (sext8 dbm) b hq] at h
    exact h
  · rw [← armRxTransactions_eq]
    have hx := (exec_receive s).trans (if_neg (not_not.mpr hp))
    exact stallsWith_of_issueAll (hx.trans (congrArg finish (rearm_eq s)))
  · exact sendStallsWith_of_sendCommon (address := none) decide_eq_true_iff.mpr rfl
  · exact sendStallsWith_of_sendCommon (address := some address) decide_eq_true_iff.mpr rfl
  · exact sendStallsWith_of_sendCommon (address := none) (fun _ => rfl) rfl
  · exact sendStallsWith_of_sendCommon (address := some address) decide_eq_true_iff.mpr rfl

/-! ## POLL -/

/-- With a stall to come after the flag read POLL ends as its decision does, with the distance one less. -/
theorem exec_poll_before_stall {m : Nat} (hp : s.phase = .ready) (hs : s.stalls = (m + 1) :: later) :
    exec .poll s = finish (pollDecision Config.params s.nextDraw (s.completed .flags1).dropDraw) ∧
      (s.completed .flags1).dropDraw.stalls = m :: later :=
  ⟨exec_poll_of_ready hp (transactionsComplete_of_stalls hs), by simp [hs, stallsAfter]⟩

/-- Settles O60: the flag read, the transactions of ARM_RX, and the FIFO reads all come before the writes. -/
theorem stalledPollsHaveWrittenNothing : Obligations.StalledPollsHaveWrittenNothing := by
  intro s later hp
  refine ⟨(stallsToCome later s.stallCursor).1, (stallsToCome later s.stallCursor).2, fun hs => ?_,
    fun hr ha j hj hs => ?_, fun hr ha hv hs => ?_, fun hr ha hv hs => ?_, fun hr ha hv hs => ?_⟩
  · rw [exec_poll, if_neg (not_not.mpr hp), readFlags1, issueForByte_stalled hs, Run.andThen_stalled, finish_stalled,
      block_eq (s := s)]
  · obtain ⟨hx, hs1⟩ := exec_poll_before_stall hp hs
    have hb : (s.completed .flags1).dropDraw.boost = s.boost := by simp
    rw [hx, pollDecision_rearm (by simpa using hr) ha, rearm_eq, hb, armRxTransactions_eq, issueAll_stalled hj hs1,
      Run.andThen_stalled, finish_stalled, block_eq (s := s)]
  · obtain ⟨hx, hs1⟩ := exec_poll_before_stall hp hs
    rw [hx, pollDecision_drain (by simpa using hr) ha, drainAndPush, drain_fixed (by simpa using hv), drainFixed,
      readFifo_stalled hs1, Run.andThen_stalled, Run.andThen_stalled, finish_stalled, block_eq (s := s)]
    simp
  · obtain ⟨hx, hs1⟩ := exec_poll_before_stall hp hs
    rw [hx, pollDecision_drain (by simpa using hr) ha, drainAndPush, drain_variable (by simpa using hv), drainVariable,
      readFifoByte, issueForByte_stalled hs1, Run.andThen_stalled, Run.andThen_stalled, finish_stalled,
      block_eq (s := s)]
  · obtain ⟨hx, hs1⟩ := exec_poll_before_stall hp hs
    have hs2 : ((s.completed .flags1).dropDraw.completed (.fifoRead 1)).dropDraw.stalls = 0 :: later := by
      simp [hs, stallsAfter]
    have hraw := State.nextDraw_congr (inputs_after_flags1 s).1 (inputs_after_flags1 s).2
    rw [hx, pollDecision_drain (by simpa using hr) ha, drainAndPush, drain_variable (by simpa using hv), drainVariable,
      readFifoByte, issueForByte_done (transactionsComplete_of_stalls hs1), Run.andThen_done, readFifo_stalled hs2,
      Run.andThen_stalled, Run.andThen_stalled, finish_stalled, block_eq (s := s), hraw]
    simp [drainLength, zext8]

end Sys2Proof.Machine
end
